-- ==== Sys2Proof/Word.lean ====
section
/-!
DEFINITION. The word types of NEIRO-DSP (spec 00_scope.md R15): a register, a `b64` datum and a
`u64` operand are all 64-bit patterns; a sample in memory is a 32-bit pattern; DMEM holds bytes.
Which reading a 64-bit pattern has is fixed by the rule that reads it, so no arithmetic stands here:
the binary64 arithmetic is `Machine/Float.lean`.
-/

namespace Sys2Proof

/-- One byte of DMEM (R80). -/
abbrev Byte := BitVec 8

/-- A 32-bit pattern, read as an IEEE 754 binary32 datum (R15). -/
abbrev B32 := BitVec 32

/-- A 64-bit pattern: a register, read as binary64 or as an unsigned integer (R15). -/
abbrev B64 := BitVec 64

end Sys2Proof
end

