-- ==== Sys2Proof/Machine/Float.lean ====
section
/-!
DEFINITION. The arithmetic of NEIRO-DSP (spec 00_scope.md R18 to R26, 93_implementation_defined.md G5): IEEE 754
binary64 with roundTiesToEven, subnormals kept, no fused operation, canonical NaN; and the conversions from and
to binary32.

A finite datum is a whole number of UNITS, the smallest subnormal of its format: 2^-1074 for `b64`, 2^-149 for
`b32`. Every operation is computed exactly, as a fraction of units with natural numerator and denominator, and
rounded once, by `roundUnits`.
-/

namespace Sys2Proof.Machine

/-- R21: the canonical `b64` NaN. -/
def nan64 : B64 := 0x7FF8000000000000

/-- R21: the canonical `b32` NaN. -/
def nan32 : B32 := 0x7FC00000

/-- The magnitude pattern of `b64` infinity. -/
def infMag64 : Nat := 0x7FF0000000000000

/-- The magnitude pattern of `b32` infinity. -/
def infMag32 : Nat := 0x7F800000

/-- Bits 62:0 of a `b64`: its pattern without the sign. -/
def mag64 (v : B64) : Nat := v.toNat % 0x8000000000000000

/-- Bits 30:0 of a `b32`: its pattern without the sign. -/
def mag32 (v : B32) : Nat := v.toNat % 0x80000000

/-- A `b64` from its sign and its magnitude pattern. -/
def pack64 (neg : Bool) (mag : Nat) : B64 :=
  BitVec.ofNat 64 (if neg then 0x8000000000000000 + mag else mag)

/-- A `b32` from its sign and its magnitude pattern. -/
def pack32 (neg : Bool) (mag : Nat) : B32 :=
  BitVec.ofNat 32 (if neg then 0x80000000 + mag else mag)

/-- The sign bit of a `b64`. -/
def neg64 (v : B64) : Bool := v.msb

/-- The sign bit of a `b32`. -/
def neg32 (v : B32) : Bool := v.msb

def isNaN64 (v : B64) : Bool := decide (infMag64 < mag64 v)

def isInf64 (v : B64) : Bool := decide (mag64 v = infMag64)

def isZero64 (v : B64) : Bool := decide (mag64 v = 0)

def isNaN32 (v : B32) : Bool := decide (infMag32 < mag32 v)

def isInf32 (v : B32) : Bool := decide (mag32 v = infMag32)

/-- The magnitude of a format with a `frac`-bit fraction field, in units, from its pattern `mag` without the sign
(the exponent field above the fraction field; exponent field 0 is subnormal). -/
def unitsOf (frac mag : Nat) : Nat :=
  if mag >>> frac = 0 then mag
  else ((1 <<< frac) + mag % (1 <<< frac)) <<< ((mag >>> frac) - 1)

/-- The magnitude of a finite `b64` in units of 2^-1074. -/
def units64 (v : B64) : Nat := unitsOf 52 (mag64 v)

/-- The magnitude of a finite `b32` in units of 2^-149. -/
def units32 (v : B32) : Nat := unitsOf 23 (mag32 v)

/-- The value of a finite `b64` in units of 2^-1074, signed. -/
def signedUnits64 (v : B64) : Int := if neg64 v then -(units64 v : Int) else units64 v

/-- The exact magnitude `n / d` units (`d > 0`) rounded to nearest, ties to even, in a format with a `frac`-bit
fraction field and the infinity pattern `inf` (R19, R23): the pattern of the result without its sign. `t` is how
many bits of `n / d` lie below the last place of the result; below the normal range it is 0, so a subnormal is
rounded to a whole unit. A fraction that rounds up to a power of two carries into the exponent field by itself. -/
def roundUnits (frac inf n d : Nat) : Nat :=
  let t := (n / d).log2 - frac
  let q := n / (d <<< t)
  let r := n % (d <<< t)
  let q' := if (d <<< t) < 2 * r || (2 * r == (d <<< t) && q % 2 == 1) then q + 1 else q
  let mag := (t <<< frac) + q'
  if mag < inf then mag else inf

/-- `n / d` units of 2^-1074 rounded to `b64`, with sign `neg`. -/
def round64 (neg : Bool) (n d : Nat) : B64 := pack64 neg (roundUnits 52 infMag64 n d)

/-- `n / d` units of 2^-149 rounded to `b32`, with sign `neg`. -/
def round32Units (neg : Bool) (n d : Nat) : B32 := pack32 neg (roundUnits 23 infMag32 n d)

/-- R19: `a + b`. An exact zero sum is +0.0 unless both operands are −0.0. -/
def fadd (a b : B64) : B64 :=
  if isNaN64 a || isNaN64 b then nan64
  else if isInf64 a then
    if isInf64 b && (neg64 a != neg64 b) then nan64 else a
  else if isInf64 b then b
  else
    let z := signedUnits64 a + signedUnits64 b
    if z = 0 then pack64 (neg64 a && neg64 b) 0
    else round64 (decide (z < 0)) z.natAbs 1

/-- The pattern with its sign bit flipped. -/
def flipSign64 (v : B64) : B64 := v ^^^ 0x8000000000000000

/-- R19: `a − b`. -/
def fsub (a b : B64) : B64 := fadd a (flipSign64 b)

/-- R19: `a × b`. Infinity times zero is NaN. -/
def fmul (a b : B64) : B64 :=
  if isNaN64 a || isNaN64 b then nan64
  else if isInf64 a || isInf64 b then
    if isZero64 a || isZero64 b then nan64 else pack64 (neg64 a != neg64 b) infMag64
  else round64 (neg64 a != neg64 b) (units64 a * units64 b) (1 <<< 1074)

/-- R19: `a / b`. A non-zero dividend over zero is infinity; 0/0 and ∞/∞ are NaN. -/
def fdiv (a b : B64) : B64 :=
  if isNaN64 a || isNaN64 b then nan64
  else if isInf64 a then
    if isInf64 b then nan64 else pack64 (neg64 a != neg64 b) infMag64
  else if isInf64 b then pack64 (neg64 a != neg64 b) 0
  else if isZero64 b then
    if isZero64 a then nan64 else pack64 (neg64 a != neg64 b) infMag64
  else round64 (neg64 a != neg64 b) (units64 a <<< 1074) (units64 b)

/-- R22: `widen`, exact; a NaN becomes the canonical `b64` NaN. One unit of 2^-149 is 2^925 units of 2^-1074. -/
def widen (v : B32) : B64 :=
  if isNaN32 v then nan64
  else if isInf32 v then pack64 (neg32 v) infMag64
  else round64 (neg32 v) (units32 v <<< 925) 1

/-- R23: `round32`; a NaN becomes the canonical `b32` NaN. -/
def round32 (v : B64) : B32 :=
  if isNaN64 v then nan32
  else if isInf64 v then pack32 (neg64 v) infMag32
  else round32Units (neg64 v) (units64 v) (1 <<< 925)

/-- A count converted to `b64` (R154: exact below 2^53). -/
def natToB64 (n : Nat) : B64 := round64 false (n <<< 1074) 1

/-- R24: `abs`. -/
def fabs (v : B64) : B64 := if isNaN64 v then nan64 else pack64 false (mag64 v)

/-- The place of a non-NaN `b64` in the order of the extended reals; the two zeros share one place. -/
def order64 (v : B64) : Int := if neg64 v then -(mag64 v : Int) else mag64 v

/-- R26: `a < b`, quiet; false when an operand is NaN. -/
def flt (a b : B64) : Bool := !isNaN64 a && !isNaN64 b && decide (order64 a < order64 b)

/-- R26: `a ≤ b`, quiet. -/
def fle (a b : B64) : Bool := !isNaN64 a && !isNaN64 b && decide (order64 a ≤ order64 b)

/-- R26: `a > b`. -/
def fgt (a b : B64) : Bool := flt b a

/-- R26: `a ≥ b`. -/
def fge (a b : B64) : Bool := fle b a

/-- R26: `a == b`, quiet; +0.0 equals −0.0. -/
def feq (a b : B64) : Bool := !isNaN64 a && !isNaN64 b && decide (order64 a = order64 b)

/-- R25: `max`; the canonical NaN if an operand is NaN. -/
def fmax (a b : B64) : B64 :=
  if isNaN64 a || isNaN64 b then nan64 else if fge a b then a else b

/-- R20: a sum `Σ`, accumulated from +0.0 in increasing index order. -/
def fsum (ts : List B64) : B64 := ts.foldl fadd 0

end Sys2Proof.Machine
end

