-- ==== Sys2Proof/Machine/Rom.lean ====
section
/-!
DEFINITION. The read-only memories of NEIRO-DSP: the K-weighting coefficients (spec 42_kweighting.md R201, 10_state.md
R64), the true-peak coefficients (44_truepeak.md R275, 10_state.md R65) and the constants (10_state.md R45). They are
fixed bit patterns: no command writes them, no reset changes them, and nothing here recomputes them (R273).
-/

namespace Sys2Proof.Machine

/-- The two sample rates of R201. -/
inductive KwRate where
  | hz48000
  | hz44100
  deriving DecidableEq, Repr

/-- R151, R206: the rate operand is compared exactly. -/
def rateOf (hz : Nat) : Option KwRate :=
  if hz = 48000 then some .hz48000 else if hz = 44100 then some .hz44100 else none

/-- The K-weighting ROM (R201), in the order of the KWC index `10·r + 5·g + c` (R44): rate 48 000 then 44 100,
pre-filter then RLB filter, b0, b1, b2, a1, a2. -/
def kwRom : List B64 :=
  [0x3FF88FDF15B33DF7, 0xC005889803022552, 0x3FF32C9DF0A5FDF9, 0xBFFB0CF0C24E59D0, 0x3FE7707B85469635,
   0x3FF0000000000000, 0xC000000000000000, 0x3FF0000000000000, 0xBFFFD73BFFFFFFEC, 0x3FEFAEABFFFFFFF8,
   0x3FF87E535FA6EB57, 0xC0053534FFEC4872, 0x3FF2B48C43EB2E1D, 0xBFFA9E54D2F41FE2, 0x3FE6CD94ED5B50E2,
   0x3FF0000000000000, 0xC000000000000000, 0x3FF0000000000000, 0xBFFFD3A39466F59F, 0x3FEFA784BC7E1509]

/-- The true-peak ROM (R275), in the order of the TPC index `12·p + k` (R43): phase p, tap k. -/
def tpRom : List B64 :=
  [0xBC3A6CCBF887D5EC, 0x3C5B4173BFC35023, 0xBC6E5519109F9B93, 0x3C798A424B1DDD9E,
   0xBC81D2A6A7E5088A, 0x3C8566D805CC959E, 0x3FF0000000000000, 0x3C84B62CC122AEAC,
   0xBC80A5940BE0F78E, 0x3C76DE5063BEB31F, 0xBC69A3F829354AD7, 0x3C54D5616AD1488A,
   0xBF62C6E1CE9F8A90, 0x3F82A3152F9C9A4D, 0xBF982524175A78A4, 0x3FAA4EF515C8D3F8,
   0xBFBBB7E8EB294FE1, 0x3FD2C1D6AA5EA74E, 0x3FEC989FCD5590F0, 0xBFC465B69BEE4D5D,
   0x3FB18F30F9D254C5, 0xBF9FEEA104CDDA3D, 0x3F89AD5FA9EB9546, 0xBF6DD297713DB9C7,
   0xBF74225E398A51E9, 0x3F9126F1435569C8, 0xBFA4F8CA195AC639, 0x3FB65ADE13AE26A5,
   0xBFC80B60F439346D, 0x3FE439C0214AF938, 0x3FE3E662B8DB6877, 0xBFC6DF486C89DE11,
   0x3FB477DECF02216D, 0xBFA24C1610921831, 0x3F8BD3F3F8C6964C, 0xBF6BC4B937892CEF,
   0xBF745E132BF11AE1, 0x3F8EF70CDEF187E6, 0xBFA20EB5C59C87BE, 0x3FB2FC9F8A1BBB1F,
   0xBFC542BEDF69F8B4, 0x3FECD5804D5CFB0C, 0x3FD24EBFAB1F1481, 0xBFBA22E120E80C49,
   0x3FA7D57485C7163E, 0xBF94C1FA1BA3443F, 0x3F7D73687ADFF0BB, 0xBF579662EF5F185A]

/-- R45: C_TABS, the absolute-gate threshold of R228. -/
def cTabs : B64 := 0x3E7F791EC6E1D5B7

/-- R45: C_W51, the surround weight of R207. -/
def cW51 : B64 := 0x3FF699C0F7E86DFC

/-- R45: C_LOFS, the loudness offset of R234. -/
def cLofs : B64 := 0xBFE61CAC083126E9

/-- The row `r` of a rate in the K-weighting ROM (R44). -/
def KwRate.row : KwRate → Nat
  | .hz48000 => 0
  | .hz44100 => 1

/-- R44: the ROM word with KWC index `10·r + 5·g + c`. -/
def kwCoeff (r g c : Nat) : B64 := kwRom.getD (10 * r + 5 * g + c) 0

/-- `PH[p][0..11]` (R263, R275): the twelve coefficients of phase `p`. -/
def tpPhase (p : Nat) : List B64 := (tpRom.drop (12 * p)).take 12

end Sys2Proof.Machine
end

