-- ==== Sys2Proof/Config.lean ====
section
/-!
DEFINITION. What an implementation of NEIRO-DSP fixes (spec 00_scope.md R10) and the values the spec
leaves open. The counts and sizes stand at the value R10 gives this hardware. The `OPEN` parameters and
the open values are opaque constants without a body: no proof can see what they are.
-/

namespace Sys2Proof.Config

/-- `NBQ`, the number of biquad slots (R10: 4; D9: legal 1..16). -/
abbrev nbq : Nat := 4

/-- `CH_MAX`, the largest channel count LUFS_MEASURE and TP_MEASURE accept (R10: 8; D9: legal 6..15). -/
abbrev chMax : Nat := 8

/-- `DMEM_BYTES`, the size of the data memory (R10: 16 777 216). -/
abbrev dmemBytes : Nat := 16777216

/-- The size of the register window (10_state.md section 2: 4096 bytes). -/
abbrev regBytes : Nat := 4096

/-- `REG_BASE`, the host bus address of the register window (R10: OPEN; free, safe: log 1). -/
opaque regBase : Nat

/-- `DMEM_BASE`, the host bus address of the DMEM window (R10: OPEN; free, safe: log 1). -/
opaque dmemBase : Nat

/-- A free value: what byte offset `a` of DMEM holds after the `n`-th hard reset, until it is written
(R92, 93_implementation_defined.md U1: any value, per byte, fixed until written; safe: log 3). -/
opaque unwrittenByte (n a : Nat) : Byte

/-- A free value: the binary64 logarithm an implementation computes for a positive finite number that is no
exact power of ten (R10, R27: `F_log10` is OPEN). `Machine/Log10.lean` keeps it inside the bounds of R27 (safe
but for the reading of "ulp": log 4). -/
opaque log10Raw : B64 → B64

end Sys2Proof.Config
end

