-- ==== Sys2Proof/Machine/State.lean ====
section
/-!
DEFINITION. The state of NEIRO-DSP (spec 10_state.md, 20_memory.md), as plain data, the reasons a step can
stop, and the state after a hard reset. No operation on the state stands here: those are `Flags`, `Operands`,
`Ops`, `Filter` and `HostAccess`.
-/

namespace Sys2Proof.Machine

/-- The nine `b64` fields of a biquad, a slot (R60) or an internal filter (R66). -/
structure Biquad where
  b0 : B64
  b1 : B64
  b2 : B64
  a1 : B64
  a2 : B64
  x1 : B64
  x2 : B64
  y1 : B64
  y2 : B64
  deriving DecidableEq, Repr

/-- R61: the unity biquad with zero state, B0 = 1.0 and every other field +0.0. -/
def Biquad.unity : Biquad :=
  { b0 := 0x3FF0000000000000, b1 := 0, b2 := 0, a1 := 0, a2 := 0, x1 := 0, x2 := 0, y1 := 0, y2 := 0 }

/-- The fields of STATUS (R35). The reserved bits read 0 and cannot be written, so they are not stored. -/
structure Status where
  busy : Bool
  done : Bool
  err : Bool
  ovr : Bool
  coll : Bool
  errcode : BitVec 8
  lastop : BitVec 8
  deriving DecidableEq, Repr

/-- R70: every field of STATUS is 0 after a reset. -/
def Status.zero : Status :=
  { busy := false, done := false, err := false, ovr := false, coll := false, errcode := 0, lastop := 0 }

/-- The error codes of R300. The byte each one writes to STATUS.ERRCODE is `ErrCode.byte`. -/
inductive ErrCode where
  | illcmd
  | rate
  | align
  | range
  | overlap
  deriving DecidableEq, Repr

/-- The two host-visible windows (R80). -/
inductive Window where
  /-- The register window, 4096 bytes at `REG_BASE`. -/
  | regs
  /-- The data memory, `DMEM_BYTES` bytes at `DMEM_BASE`. -/
  | dmem
  deriving DecidableEq, Repr

/-- The widths of a host access: 1, 2, 4 or 8 bytes (R84, R119). -/
inductive Width where
  | w1
  | w2
  | w4
  | w8
  deriving DecidableEq, Repr

/-- One host access (R9, R119), at a byte offset in a window. -/
inductive Access where
  | read (win : Window) (w : Width) (off : Nat)
  | write (win : Window) (w : Width) (off : Nat) (v : B64)
  deriving DecidableEq, Repr

/-- What happens next, from outside or from the engine (R9, R144, R340). The order of the turns is the
interleaving of the two agents, which the spec leaves open: it is data of the state, so a statement about every
state is a statement about every interleaving (DESIGN CHOICE, log 2). -/
inductive Turn where
  /-- The host makes one access. -/
  | host (a : Access)
  /-- The engine completes the command in flight, if there is one. -/
  | engine
  /-- The platform pulses the hard reset input. -/
  | hardReset
  deriving DecidableEq, Repr

/-- The data memory: the bytes written since the last hard reset, at strictly rising offsets. A byte that is not
listed has no value of the model's (R92: "a model gives each byte no value until it is written"). -/
abbrev Dmem := List Host.Cell

/-- The state of the block, together with what is still to happen to it. -/
structure State where
  /-- CTRL bit 0, IE (R34); the other bits of CTRL read 0 and are not stored. -/
  ie : Bool
  /-- STATUS (R35). -/
  status : Status
  /-- ARG0..ARG7 (R38). -/
  arg : Vector B64 8
  /-- RES0..RES7 (R39). -/
  res : Vector B64 8
  /-- The biquad slots (R60). -/
  slots : Vector Biquad Config.nbq
  /-- The engine's internal pre-filter KWPRE (R66). -/
  kwpre : Biquad
  /-- The engine's internal RLB filter KWRLB (R66). -/
  kwrlb : Biquad
  /-- CMDL, the CMD value latched at accept (R67). -/
  cmdl : B64
  /-- ARGL[0..7], the ARG values latched at accept (R67). -/
  argl : Vector B64 8
  /-- DMEM (R80). -/
  dmem : Dmem
  /-- The model's own: how many hard resets there have been; it selects the unspecified DMEM contents (R92). -/
  resets : Nat
  /-- The model's own: what happens next, the first turn first (R9). -/
  pending : List Turn
  /-- The model's own: the datum the block answered to the last host read; `none` before the first. -/
  readData : Option B64
  deriving DecidableEq, Repr

/-- Why a step stops with a fault. -/
inductive Fault where
  /-- Raised by a host access at an offset outside its window, which "does not reach the block; the platform
  decodes it" (R84, R41): there is no block behaviour to model (DESIGN CHOICE, log 6). Safe: the model stops where the platform would
  answer. No command raises it. -/
  | outsideWindow (win : Window) (off : Nat)
  deriving DecidableEq, Repr

/-- Why a step is refused. -/
inductive Refusal where
  /-- An instruction without a meaning. No arm of `exec` answers it: every command is modelled. Safe. -/
  | notModelled (mnemonic : String)
  deriving DecidableEq, Repr

/-- The machine right after a hard reset (R70, R340). CMDL, ARGL, KWPRE and KWRLB have no stated value:
DESIGN CHOICE, unsafe, log 5. Nothing is pending and nothing has been read: DESIGN CHOICE, log 2. -/
def State.reset : State where
  ie := false
  status := Status.zero
  arg := Vector.replicate 8 0
  res := Vector.replicate 8 0
  slots := Vector.replicate Config.nbq Biquad.unity
  kwpre := Biquad.unity
  kwrlb := Biquad.unity
  cmdl := 0
  argl := Vector.replicate 8 0
  dmem := []
  resets := 0
  pending := []
  readData := none

end Sys2Proof.Machine
end

