-- ==== Sys2Proof/Machine/Filter.lean ====
section
/-!
DEFINITION. The Direct-Form-I filter that the biquad commands and K-weighting share (spec 41_biquad.md R169), and the
K-weighting of one channel (42_kweighting.md R203).
-/

namespace Sys2Proof.Machine

/-- The output of one DF-I step, `b0·x + b1·x1 + b2·x2 − a1·y1 − a2·y2`, left to right with one rounding for each
operator (R20, R169). -/
def Biquad.output (f : Biquad) (x : B64) : B64 :=
  let t := fmul f.b0 x
  let t := fadd t (fmul f.b1 f.x1)
  let t := fadd t (fmul f.b2 f.x2)
  let t := fsub t (fmul f.a1 f.y1)
  fsub t (fmul f.a2 f.y2)

/-- R169: `DF1(f, x)`, the output and the filter after one simultaneous update. X1 is the input moved unchanged. -/
def df1 (f : Biquad) (x : B64) : B64 × Biquad :=
  (f.output x, { f with x2 := f.x1, x1 := x, y2 := f.y1, y1 := f.output x })

/-- R175, R203: the four state fields zeroed. -/
def Biquad.zeroState (f : Biquad) : Biquad := { f with x1 := 0, x2 := 0, y1 := 0, y2 := 0 }

/-- R182, R183: a buffer through a filter, each sample widened, each output rounded to `b32` only where it is
stored; and the filter afterwards, with its state unrounded. -/
def runFilter (f : Biquad) : List B32 → List B32 × Biquad
  | [] => ([], f)
  | x :: xs =>
    let step := df1 f (widen x)
    let rest := runFilter step.2 xs
    (round32 step.1 :: rest.1, rest.2)

/-- R203: the filter of ROM row `(r, g)` with zero state; `g` is 0 for the pre-filter and 1 for the RLB filter. -/
def kwFilter (rate : KwRate) (g : Nat) : Biquad :=
  { b0 := kwCoeff rate.row g 0, b1 := kwCoeff rate.row g 1, b2 := kwCoeff rate.row g 2,
    a1 := kwCoeff rate.row g 3, a2 := kwCoeff rate.row g 4, x1 := 0, x2 := 0, y1 := 0, y2 := 0 }

/-- The pre-filter pass of R203: the `b32` buffer `m` and KWPRE afterwards. -/
def kwPrePass (rate : KwRate) (xs : List B32) : List B32 × Biquad := runFilter (kwFilter rate 0) xs

/-- The RLB pass of R203 over the rounded `b32` buffer `m`: the buffer `k` and KWRLB afterwards. -/
def kwRlbPass (rate : KwRate) (xs : List B32) : List B32 × Biquad := runFilter (kwFilter rate 1) (kwPrePass rate xs).1

/-- R203: `KW(x, rate)`, one channel K-weighted by fresh filters. -/
def kWeight (rate : KwRate) (xs : List B32) : List B32 := (kwRlbPass rate xs).1

/-- R66, R203: the internal filters as a K-weighting of the channel `xs` leaves them. -/
def State.setKwFilters (s : State) (rate : KwRate) (xs : List B32) : State :=
  { s with kwpre := (kwPrePass rate xs).2, kwrlb := (kwRlbPass rate xs).2 }

end Sys2Proof.Machine
end

