-- ==== Sys2Proof/Syntax.lean ====
section
/-!
DEFINITION. The command set of NEIRO-DSP (spec 30_encoding.md R112): one constructor per row of
`spec/opcode_table.json`. A field holds the 4 bits the command word gives it (R114: unsigned, never scaled).
-/

namespace Sys2Proof

/-- The eight commands (R3, R112). -/
inductive Instr where
  /-- NOP (R153). -/
  | nop
  /-- BQ_LOAD s: construct a biquad in slot s (R170). -/
  | bqLoad (slot : BitVec 4)
  /-- BQ_RESET s: zero the state of slot s (R175). -/
  | bqReset (slot : BitVec 4)
  /-- BQ_STEP s: one sample through slot s (R178). -/
  | bqStep (slot : BitVec 4)
  /-- BQ_RUN s: one buffer through slot s (R182). -/
  | bqRun (slot : BitVec 4)
  /-- KW_APPLY: K-weight one buffer (R204). -/
  | kwApply
  /-- LUFS_MEASURE C: integrated loudness of C channels (R220). -/
  | lufsMeasure (nch : BitVec 4)
  /-- TP_MEASURE C: the maximum true peak over C channels (R260). -/
  | tpMeasure (nch : BitVec 4)
  deriving DecidableEq, Repr

end Sys2Proof
end

