-- ==== Sys2Proof/WellFormed.lean ====
section
/-!
DEFINITION. Which commands are legal on this hardware: the parts 5 and 6 of spec 30_encoding.md R115, which
are about a field's VALUE. (Parts 1 to 4 are about bits that an `Instr` does not have.)
-/

namespace Sys2Proof

/-- R115 parts 5 and 6: a slot number is below `NBQ`, a channel count is at most `CH_MAX`. -/
def Instr.wellFormed : Instr → Bool
  | .nop => true
  | .bqLoad slot => decide (slot.toNat < Config.nbq)
  | .bqReset slot => decide (slot.toNat < Config.nbq)
  | .bqStep slot => decide (slot.toNat < Config.nbq)
  | .bqRun slot => decide (slot.toNat < Config.nbq)
  | .kwApply => true
  | .lufsMeasure nch => decide (nch.toNat ≤ Config.chMax)
  | .tpMeasure nch => decide (nch.toNat ≤ Config.chMax)

end Sys2Proof
end

