-- ==== Sys2Proof/Decode.lean ====
section
/-!
DEFINITION. Decoding and encoding of the command word (spec 30_encoding.md R110 to R117). A command is one
64-bit value written to CMD; its low 32 bits are the command word. Decoding is total: every 64-bit value is
one command of R112 or is refused with the part of R115 that refuses it.
-/

namespace Sys2Proof

/-- Which part of R115 makes a CMD value illegal. All of them complete with ILLCMD. -/
inductive DecodeError where
  /-- R115 part 1: `v[63:16] ≠ 0`. -/
  | reservedBits
  /-- R115 part 2: `v[7:0]` is not an opcode of R112. -/
  | reservedOpcode
  /-- R115 part 3: the opcode does not read SLOT and `v[11:8] ≠ 0`. -/
  | slotNotZero
  /-- R115 part 4: the opcode does not read NCH and `v[15:12] ≠ 0`. -/
  | nchNotZero
  /-- R115 part 5: the opcode reads SLOT and `v[11:8] ≥ NBQ`. -/
  | slotTooBig
  /-- R115 part 6: the opcode reads NCH and `v[15:12] > CH_MAX`. -/
  | nchTooBig
  deriving DecidableEq, Repr

/-- R110: bits 7:0, OPC. -/
def opcOf (v : B64) : BitVec 8 := v.extractLsb' 0 8

/-- R110: bits 11:8, SLOT. -/
def slotOf (v : B64) : BitVec 4 := v.extractLsb' 8 4

/-- R110: bits 15:12, NCH. -/
def nchOf (v : B64) : BitVec 4 := v.extractLsb' 12 4

/-- R110 and R115 part 1: bits 63:16, which must be 0. -/
def rsvOf (v : B64) : BitVec 48 := v.extractLsb' 16 48

/-- A command that reads neither SLOT nor NCH (R115 parts 3 and 4). -/
def decodePlain (i : Instr) (v : B64) : Except DecodeError Instr :=
  if slotOf v ≠ 0 then .error .slotNotZero
  else if nchOf v ≠ 0 then .error .nchNotZero
  else .ok i

/-- A command that reads SLOT and not NCH (R115 parts 4 and 5). -/
def decodeSlotted (c : BitVec 4 → Instr) (v : B64) : Except DecodeError Instr :=
  if nchOf v ≠ 0 then .error .nchNotZero
  else if (slotOf v).toNat < Config.nbq then .ok (c (slotOf v))
  else .error .slotTooBig

/-- A command that reads NCH and not SLOT (R115 parts 3 and 6). -/
def decodeChannelled (c : BitVec 4 → Instr) (v : B64) : Except DecodeError Instr :=
  if slotOf v ≠ 0 then .error .slotNotZero
  else if (nchOf v).toNat ≤ Config.chMax then .ok (c (nchOf v))
  else .error .nchTooBig

/-- The decoder (R112, R115, R117): total on every value a host can write to CMD. -/
def decode (v : B64) : Except DecodeError Instr :=
  if rsvOf v ≠ 0 then .error .reservedBits
  else if opcOf v = 0x00 then decodePlain .nop v
  else if opcOf v = 0x10 then decodeSlotted .bqLoad v
  else if opcOf v = 0x11 then decodeSlotted .bqReset v
  else if opcOf v = 0x12 then decodeSlotted .bqStep v
  else if opcOf v = 0x13 then decodeSlotted .bqRun v
  else if opcOf v = 0x20 then decodePlain .kwApply v
  else if opcOf v = 0x30 then decodeChannelled .lufsMeasure v
  else if opcOf v = 0x40 then decodeChannelled .tpMeasure v
  else .error .reservedOpcode

/-- The command word of R112's list: `OPC | s<<8` or `OPC | C<<12`. -/
def encode : Instr → BitVec 32
  | .nop => 0x00000000
  | .bqLoad slot => 0x00000010 ||| slot.setWidth 32 <<< 8
  | .bqReset slot => 0x00000011 ||| slot.setWidth 32 <<< 8
  | .bqStep slot => 0x00000012 ||| slot.setWidth 32 <<< 8
  | .bqRun slot => 0x00000013 ||| slot.setWidth 32 <<< 8
  | .kwApply => 0x00000020
  | .lufsMeasure nch => 0x00000030 ||| nch.setWidth 32 <<< 12
  | .tpMeasure nch => 0x00000040 ||| nch.setWidth 32 <<< 12

/-- The value a host writes to CMD to issue `i` (R37, R111: the word in the low half, the high half 0). -/
def cmdValue (i : Instr) : B64 := (encode i).setWidth 64

/-- The 64-bit CMD value whose low `nbits` bits are those of `w` and whose other bits are 0. -/
def cmdBits (nbits w : Nat) : B64 := BitVec.ofNat 64 (w % 2 ^ nbits)

/-- The instruction the decoder reads from the bits `w`, numbered as `spec/opcode_table.json` numbers them. -/
def decodeTableWord (nbits w : Nat) : Option Instr :=
  match decode (cmdBits nbits w) with
  | .ok i => some i
  | .error _ => none

end Sys2Proof
end

