-- ==== Sys2Proof/Machine/Flags.lean ====
section
/-!
DEFINITION. The flags of NEIRO-DSP. The block has no condition codes; its only flags are the bits of STATUS (spec
10_state.md R32, R35), which change at accept, at completion, on an overrun, on a collision, on a write-1-to-clear
and on a reset, and nowhere else.
-/

namespace Sys2Proof.Machine

/-- The byte an error code puts in STATUS.ERRCODE (R300). -/
def ErrCode.byte : ErrCode → BitVec 8
  | .illcmd => 0x01
  | .rate => 0x02
  | .align => 0x03
  | .range => 0x04
  | .overlap => 0x05

/-- STATUS as the host reads it (R35): bits 4..0 the flags, 15..8 ERRCODE, 23..16 LASTOP, the rest 0. -/
def Status.word (st : Status) : B64 :=
  (0 : BitVec 40) ++ st.lastop ++ st.errcode ++ (0 : BitVec 3)
    ++ BitVec.ofBool st.coll ++ BitVec.ofBool st.ovr ++ BitVec.ofBool st.err
    ++ BitVec.ofBool st.done ++ BitVec.ofBool st.busy

/-- R36: a host write of `v` to STATUS clears each of DONE, ERR, OVR and COLL whose bit in `v` is 1. -/
def Status.writeOneToClear (v : B64) (st : Status) : Status :=
  { st with
    done := st.done && !v.getLsbD 1
    err := st.err && !v.getLsbD 2
    ovr := st.ovr && !v.getLsbD 3
    coll := st.coll && !v.getLsbD 4 }

/-- R140: accept sets BUSY and clears DONE; nothing else in STATUS changes. -/
def Status.accept (st : Status) : Status := { st with busy := true, done := false }

/-- R145: a CMD write while BUSY = 1 sets OVR. -/
def Status.overrun (st : Status) : Status := { st with ovr := true }

/-- R90: a host DMEM access while BUSY = 1 sets COLL. -/
def Status.collide (st : Status) : Status := { st with coll := true }

/-- R142, success: BUSY 0, DONE 1, ERRCODE 0x00, LASTOP the opcode byte; ERR keeps its value (R307). -/
def Status.succeed (op : BitVec 8) (st : Status) : Status :=
  { st with busy := false, done := true, errcode := 0x00, lastop := op }

/-- R142, R306, error `e`: BUSY 0, DONE 1, ERR 1, ERRCODE the code, LASTOP the opcode byte. -/
def Status.fail (e : ErrCode) (op : BitVec 8) (st : Status) : Status :=
  { st with busy := false, done := true, err := true, errcode := e.byte, lastop := op }

/-- R310: the interrupt output, a level: `IRQ = CTRL.IE ∧ STATUS.DONE`. It is not separate state (R69). -/
def State.irq (s : State) : Bool := s.ie && s.status.done

end Sys2Proof.Machine
end

