-- ==== Sys2Proof/Machine/Operands.lean ====
section
/-!
DEFINITION. The operand forms of NEIRO-DSP: an ARG latch read as a pattern or as an unsigned integer (spec
30_encoding.md R113, R114), a slot number, a region of DMEM (20_memory.md R86), the effective addresses (R87), and
the checks every command runs on them in one order (40_common.md R146 to R149, R151). All of it is arithmetic on unbounded
natural numbers, so nothing wraps (R14, R154).
-/

namespace Sys2Proof.Machine

/-- A `b64` operand: the pattern in latch `i` (R114). -/
def State.argB (s : State) (i : Fin 8) : B64 := s.argl[i]

/-- A `u64` operand: latch `i` as an unsigned integer (R14, R114). -/
def State.argU (s : State) (i : Fin 8) : Nat := s.argl[i].toNat

/-- The slot a SLOT field names, if this hardware has it (R115 part 5). -/
def slotIndex (slot : BitVec 4) : Option (Fin Config.nbq) :=
  if h : slot.toNat < Config.nbq then some ⟨slot.toNat, h⟩ else none

/-- R86: `Region(a, len)` is in range when it is empty or ends inside DMEM. -/
def inRange (a len : Nat) : Bool := len == 0 || decide (a + len ≤ Config.dmemBytes)

/-- R86: two regions overlap when both are non-empty and each starts below the other's end. -/
def overlap (a1 len1 a2 len2 : Nat) : Bool :=
  len1 != 0 && len2 != 0 && decide (a1 < a2 + len2) && decide (a2 < a1 + len1)

/-- R87: sample `i` of a buffer with base `a`. -/
def sampleAddr (a i : Nat) : Nat := a + 4 * i

/-- R87: the base of channel `c` of a multi-channel command. -/
def channelBase (base stride c : Nat) : Nat := base + c * stride

/-- R87: block power `j` of LUFS_MEASURE. -/
def powerAddr (bp j : Nat) : Nat := bp + 8 * j

/-- R146, R304: checks in their order, each with the code it gives when it fails; the first that fails wins. -/
def firstError : List (Bool × ErrCode) → Option ErrCode
  | [] => none
  | (ok, e) :: rest => if ok then firstError rest else some e

/-- R151: the rate operand is one of the two supported rates. -/
def rateOk (hz : Nat) : Bool := (rateOf hz).isSome

/-- The alignment, range and overlap checks of BQ_RUN and KW_APPLY (R147, R148, R149): `src = dst` is legal. -/
def bufferChecks (src dst n : Nat) : List (Bool × ErrCode) :=
  [ (src % 4 == 0 && dst % 4 == 0, .align),
    (inRange src (4 * n) && inRange dst (4 * n), .range),
    (!(overlap src (4 * n) dst (4 * n) && src != dst), .overlap) ]

/-- R148: every channel region of a multi-channel command is in range. -/
def channelsInRange (base stride n c : Nat) : Bool :=
  (List.range c).all fun k => inRange (channelBase base stride k) (4 * n)

/-- R149: `Region(a, len)` overlaps no channel region. -/
def clearOfChannels (a len base stride n c : Nat) : Bool :=
  (List.range c).all fun k => !overlap a len (channelBase base stride k) (4 * n)

end Sys2Proof.Machine
end

