-- ==== Sys2Proof/Machine/Ops.lean ====
section
/-!
DEFINITION. The named operations over memory and registers (spec 20_memory.md, 40_common.md), and the two ends of a
command: success, and the error completion, which is the block's only trap-like event (60_exceptions.md R306). There
is no return from it (R307): the engine is idle again at once.
-/

namespace Sys2Proof.Machine

/-- The byte written at offset `a` since the last hard reset, if one was. -/
def Dmem.read : Dmem → Nat → Option Byte
  | [], _ => none
  | (b, v) :: m, a => if a = b then some v else if a < b then none else Dmem.read m a

/-- The memory with byte `v` written at offset `a`. -/
def Dmem.write : Dmem → Nat → Byte → Dmem
  | [], a, v => [(a, v)]
  | (b, w) :: m, a, v =>
    if a = b then (a, v) :: m
    else if a < b then (a, v) :: (b, w) :: m
    else (b, w) :: Dmem.write m a v

/-- R81: `MemWrite(a, n, v)`, the low `8·n` bits of `v`, little-endian. -/
def Dmem.writeLE (m : Dmem) (a : Nat) : Nat → Nat → Dmem
  | 0, _ => m
  | n + 1, v => Dmem.writeLE (m.write a (BitVec.ofNat 8 v)) (a + 1) n (v / 256)

/-- The canonical form: strictly rising offsets, every one of them inside DMEM (R80). An unlisted byte reads as no
value (R92), which no entry equals. -/
def Dmem.wf (m : Dmem) : Bool :=
  decide (List.Pairwise (fun c d : Host.Cell => c.1 < d.1) m) && m.all fun c => decide (c.1 < Config.dmemBytes)

/-- What DMEM offset `a` holds: the byte written, or the unspecified byte of this hard reset (R92, U1, U2; log 3). -/
def State.byteAt (s : State) (a : Nat) : Byte := (Dmem.read s.dmem a).getD (Config.unwrittenByte s.resets a)

/-- R81: `MemRead(a, n)`, little-endian. -/
def State.memRead (s : State) (a : Nat) : Nat → Nat
  | 0 => 0
  | n + 1 => (s.byteAt a).toNat + 256 * State.memRead s (a + 1) n

/-- R81: `MemWrite(a, n, v)`. -/
def State.memWrite (s : State) (a n v : Nat) : State := { s with dmem := Dmem.writeLE s.dmem a n v }

/-- R16: `LoadS`. -/
def State.loadS (s : State) (a : Nat) : B32 := BitVec.ofNat 32 (s.memRead a 4)

/-- R16: `StoreS`. -/
def State.storeS (s : State) (a : Nat) (v : B32) : State := s.memWrite a 4 v.toNat

/-- R16: `StoreD`. -/
def State.storeD (s : State) (a : Nat) (v : B64) : State := s.memWrite a 8 v.toNat

/-- The `n` samples of the buffer with base `a`, in order (R87). -/
def State.loadSamples (s : State) (a n : Nat) : List B32 :=
  (List.range n).map fun i => s.loadS (sampleAddr a i)

/-- `StoreS` of each sample of a list in order, from base `a` (R87). -/
def State.storeSamples (s : State) (a : Nat) : List B32 → State
  | [] => s
  | v :: vs => State.storeSamples (s.storeS a v) (a + 4) vs

/-- `StoreD` of each block power of a list in order, from base `bp` (R226). -/
def State.storePowers (s : State) (bp : Nat) : List B64 → State
  | [] => s
  | v :: vs => State.storePowers (s.storeD bp v) (bp + 8) vs

/-- `RES<i> <- v`. -/
def State.setRes (s : State) (i : Fin 8) (v : B64) : State := { s with res := s.res.set i v }

/-- `SLOT[k] <- f`. -/
def State.setSlot (s : State) (k : Fin Config.nbq) (f : Biquad) : State := { s with slots := s.slots.set k f }

/-- The opcode byte of the command in flight, `CMDL[7:0]` (R142). -/
def State.opByte (s : State) : BitVec 8 := opcOf s.cmdl

/-- R16, R142: `finish`, the command in flight ends with success. -/
def State.finish (s : State) : State := { s with status := s.status.succeed s.opByte }

/-- R16, R142, R143, R306: `raise e`, the command in flight ends with error `e` and changes STATUS only. -/
def State.raise (s : State) (e : ErrCode) : State := { s with status := s.status.fail e s.opByte }

/-- R140: accept of CMD value `v`. -/
def State.accept (s : State) (v : B64) : State :=
  { s with cmdl := v, argl := s.arg, status := s.status.accept }

/-- R37, R140, R145: a host write of `v` to CMD. -/
def State.issue (s : State) (v : B64) : State :=
  if s.status.busy then { s with status := s.status.overrun } else s.accept v

/-- R341, R342: a soft reset. DMEM is unchanged; a command in flight is aborted, since BUSY becomes 0 and none of its
writes has happened. The latches and the internal filters have no meaning afterwards (R70) and are left alone. -/
def State.softReset (s : State) : State :=
  { s with
    ie := false
    status := Status.zero
    arg := Vector.replicate 8 0
    res := Vector.replicate 8 0
    slots := Vector.replicate Config.nbq Biquad.unity }

/-- R340: a hard reset. DMEM becomes unspecified: every byte takes the free value of the new reset (R92). What is still
pending and what the host has read are not the block's, and stay. -/
def State.hardReset (s : State) : State :=
  { State.reset with resets := s.resets + 1, pending := s.pending, readData := s.readData }

end Sys2Proof.Machine
end

