-- ==== Sys2Proof/Machine/Biquads.lean ====
section
/-!
DEFINITION. The biquad commands (spec 41_biquad.md).
-/

namespace Sys2Proof.Machine

/-- R170: the biquad constructed from latches b0, b1, b2, a0, a1, a2, each coefficient divided by a0. -/
def constructed (b0 b1 b2 a0 a1 a2 : B64) : Biquad :=
  { b0 := fdiv b0 a0, b1 := fdiv b1 a0, b2 := fdiv b2 a0, a1 := fdiv a1 a0, a2 := fdiv a2 a0,
    x1 := 0, x2 := 0, y1 := 0, y2 := 0 }

/-- R170, R171: BQ_LOAD s. -/
def execBqLoad (slot : BitVec 4) (s : State) : Host.Outcome State Fault Refusal :=
  match slotIndex slot with
  | none => .next (s.raise .illcmd)
  | some k =>
    .next (s.setSlot k (constructed (s.argB 0) (s.argB 1) (s.argB 2) (s.argB 3) (s.argB 4) (s.argB 5))).finish

/-- R175: BQ_RESET s. -/
def execBqReset (slot : BitVec 4) (s : State) : Host.Outcome State Fault Refusal :=
  match slotIndex slot with
  | none => .next (s.raise .illcmd)
  | some k => .next (s.setSlot k s.slots[k].zeroState).finish

/-- R178, R179: BQ_STEP s. -/
def execBqStep (slot : BitVec 4) (s : State) : Host.Outcome State Fault Refusal :=
  match slotIndex slot with
  | none => .next (s.raise .illcmd)
  | some k =>
    let y := df1 s.slots[k] (s.argB 0)
    .next ((s.setSlot k y.2).setRes 0 y.1).finish

/-- R182 to R184: BQ_RUN s. Every input is read before any output is stored (R141). -/
def execBqRun (slot : BitVec 4) (s : State) : Host.Outcome State Fault Refusal :=
  match slotIndex slot with
  | none => .next (s.raise .illcmd)
  | some k =>
    let src := s.argU 0
    let dst := s.argU 1
    let n := s.argU 2
    match firstError (bufferChecks src dst n) with
    | some e => .next (s.raise e)
    | none =>
      let out := runFilter s.slots[k] (s.loadSamples src n)
      .next ((s.setSlot k out.2).storeSamples dst out.1).finish

end Sys2Proof.Machine
end

