-- ==== Sys2Proof/Machine/Kweighting.lean ====
section
/-!
DEFINITION. KW_APPLY (spec 42_kweighting.md R204, R205).
-/

namespace Sys2Proof.Machine

/-- R204: KW_APPLY. The rate is checked before alignment, range and overlap; the user slots are not touched. -/
def execKwApply (s : State) : Host.Outcome State Fault Refusal :=
  let src := s.argU 0
  let dst := s.argU 1
  let n := s.argU 2
  match rateOf (s.argU 3) with
  | none => .next (s.raise .rate)
  | some rate =>
    match firstError (bufferChecks src dst n) with
    | some e => .next (s.raise e)
    | none =>
      let xs := s.loadSamples src n
      .next ((s.setKwFilters rate xs).storeSamples dst (kWeight rate xs)).finish

end Sys2Proof.Machine
end

