-- ==== Sys2Proof/Machine/Log10.lean ====
section
/-!
DEFINITION. `F_log10`, the binary64 base-10 logarithm of LUFS_MEASURE (spec 00_scope.md R27, D8). The spec
leaves the function open and states five properties of it. Here the implementation's own logarithm is the free
value `Config.log10Raw`, taken wherever R27 leaves a choice; where R27 fixes the value (zeros, +∞, negative
numbers, NaN, exact powers of ten) that value is returned, and a free value that is not within 1 ulp of the true
logarithm is replaced by the nearest `b64`, so that the bound of R27 always holds (log 4).

The true logarithm of a positive finite number is enclosed between two fixed-point numbers `lo / 2^240` and
`hi / 2^240`. Its binary digits come from squaring: with `1 ≤ m ≤ 10`, the next digit of `log10 m` is 1 exactly when
`m² ≥ 10`. One run rounds every step down and gives `lo`; one rounds every step up and gives `hi`.
-/

namespace Sys2Proof.Machine

/-- How many binary digits of the logarithm are computed. -/
def logDigits : Nat := 240

/-- The fixed-point place of the number that is squared. -/
def logPlace : Nat := 560

/-- `10^k`, by repeated multiplication. -/
def tenPow : Nat → Nat
  | 0 => 1
  | k + 1 => 10 * tenPow k

/-- How often `n` can be divided by 10 before it is below 10, looking at most `fuel` times. -/
def floorLog10 : Nat → Nat → Nat
  | 0, _ => 0
  | fuel + 1, n => if n < 10 then 0 else floorLog10 fuel (n / 10) + 1

/-- `k` binary digits of `log10 (m / 2^560)`, rounding every step down, after the digits `acc`. -/
def logDown : Nat → Nat → Nat → Nat
  | 0, _, acc => acc
  | k + 1, m, acc =>
    let sq := (m * m) >>> logPlace
    if sq < 10 <<< logPlace then logDown k sq (2 * acc) else logDown k (sq / 10) (2 * acc + 1)

/-- `a / b` rounded up. -/
def ceilDiv (a b : Nat) : Nat := (a + (b - 1)) / b

/-- `k` binary digits of `log10 (m / 2^560)`, rounding every step up, after the digits `acc`. -/
def logUp : Nat → Nat → Nat → Nat
  | 0, _, acc => acc
  | k + 1, m, acc =>
    let sq := ceilDiv (m * m) (1 <<< logPlace)
    if sq < 10 <<< logPlace then logUp k sq (2 * acc) else logUp k (ceilDiv sq 10) (2 * acc + 1)

/-- For a positive finite `x`: integers `(lo, hi)` with `lo / 2^240 ≤ log10 x ≤ hi / 2^240`. With `u` units in `x`,
`x · 10^324 = u · 10^324 / 2^1074 ≥ 1`, whose integer part gives the decimal exponent `e - 324`; what is left is
between 1 and 10. -/
def log10Bounds (x : B64) : Int × Int :=
  let n := units64 x * tenPow 324
  let e := floorLog10 700 (n >>> 1074)
  let d := tenPow e <<< 1074
  let m := (n <<< logPlace) / d
  let base := ((e : Int) - 324) * (1 <<< logDigits : Nat)
  (base + logDown logDigits m 0, base + logUp logDigits (m + 1) 0 + 1)

/-- R27, the bound: `y` is finite and within 1 ulp of every real number between the two bounds. In units of
2^-(1074+240): `y` is `signedUnits64 y · 2^240`, a bound `b` is `b · 2^1074`, and 1 ulp of a number of magnitude
`b / 2^240` is `2^(log2 b − 52 + 1074)`; the smaller of the two bounds' ulps is taken. -/
def withinUlp (lo hi : Int) (y : B64) : Bool :=
  let ulp : Int := (1 <<< (Nat.log2 (min lo.natAbs hi.natAbs) + 1022) : Nat)
  let v := signedUnits64 y * (1 <<< logDigits : Nat)
  decide (mag64 y < infMag64)
    && decide (v - lo * (1 <<< 1074 : Nat) ≤ ulp)
    && decide (hi * (1 <<< 1074 : Nat) - v ≤ ulp)

/-- The `b64` nearest to the lower bound of the logarithm. -/
def log10Nearest (lo : Int) : B64 := round64 (decide (lo < 0)) (lo.natAbs <<< 1074) (1 <<< logDigits)

/-- `k` when `x` is exactly `10^k` for a `k` below `bound` (R27; `10^k` is a `b64` exactly for `k = 0..22`). -/
def exactPowerOfTen (x : B64) (bound : Nat) : Option Nat :=
  (List.range bound).find? fun k => units64 x == tenPow k <<< 1074

/-- R27: `F_log10`. -/
def fLog10 (x : B64) : B64 :=
  if isNaN64 x then nan64
  else if isZero64 x then pack64 true infMag64
  else if neg64 x then nan64
  else if isInf64 x then pack64 false infMag64
  else
    match exactPowerOfTen x 23 with
    | some k => natToB64 k
    | none =>
      if withinUlp (log10Bounds x).1 (log10Bounds x).2 (Config.log10Raw x) then Config.log10Raw x
      else log10Nearest (log10Bounds x).1

end Sys2Proof.Machine
end

