-- ==== Sys2Proof/Machine/Lufs.lean ====
section
/-!
DEFINITION. LUFS_MEASURE (spec 43_lufs.md), with the channel weights of 42_kweighting.md R207.
-/

namespace Sys2Proof.Machine

/-- R222: the block length B in samples. -/
def blockLength : KwRate → Nat
  | .hz48000 => 19200
  | .hz44100 => 17640

/-- R222: the hop H in samples. -/
def blockHop : KwRate → Nat
  | .hz48000 => 4800
  | .hz44100 => 4410

/-- R223: the number of blocks in `n` samples. -/
def blockCount (rate : KwRate) (n : Nat) : Nat :=
  if blockLength rate ≤ n then (n - blockLength rate) / blockHop rate + 1 else 0

/-- R207: the weight of channel `c` of a `C`-channel measurement. -/
def channelWeight (nch c : Nat) : B64 :=
  if nch = 6 then
    if c = 3 then 0x0000000000000000 else if c = 4 ∨ c = 5 then cW51 else 0x3FF0000000000000
  else 0x3FF0000000000000

/-- Block `j` of a channel: B samples from sample `j·H` on (R223). -/
def blockSamples (rate : KwRate) (j : Nat) (k : List B32) : List B32 :=
  (k.drop (j * blockHop rate)).take (blockLength rate)

/-- R224: the mean square of one channel over one block, from its own sum. -/
def meanSquare (rate : KwRate) (j : Nat) (k : List B32) : B64 :=
  fdiv (fsum ((blockSamples rate j k).map fun v => fmul (widen v) (widen v))) (natToB64 (blockLength rate))

/-- R225: the weighted power of block `j` over the K-weighted channels `ks`. -/
def blockPower (rate : KwRate) (ks : List (List B32)) (j : Nat) : B64 :=
  fsum (ks.zipIdx.map fun kc => fmul (channelWeight ks.length kc.2) (meanSquare rate j kc.1))

/-- What the dual gate gives (R228 to R231). -/
structure Gated where
  nabs : Nat
  m1 : B64
  nrel : Nat
  g : B64
  deriving DecidableEq, Repr

/-- The arithmetic mean of a list of powers, +0.0 for no powers (R229, R231). -/
def meanPower (ps : List B64) : B64 := if ps.length = 0 then 0 else fdiv (fsum ps) (natToB64 ps.length)

/-- R228: the powers that pass the absolute gate. -/
def absoluteGate (ps : List B64) : List B64 := ps.filter fun p => fgt p cTabs

/-- R230: of the powers that passed the absolute gate, those at or above a tenth of their mean. -/
def relativeGate (as : List B64) : List B64 :=
  as.filter fun p => fge p (fdiv (meanPower as) (natToB64 10))

/-- R228 to R231: the dual gate. -/
def gate (ps : List B64) : Gated :=
  let as := absoluteGate ps
  let rs := relativeGate as
  { nabs := as.length, m1 := meanPower as, nrel := rs.length, g := meanPower rs }

/-- R234: the loudness of a gated mean square. -/
def loudness (g : B64) : B64 :=
  if feq g 0 then pack64 true infMag64 else fadd cLofs (fmul (natToB64 10) (fLog10 g))

/-- The checks of LUFS_MEASURE after the rate (R147, R148, R149): `nblk` block powers at `bp`. -/
def lufsChecks (base stride n bp nblk c : Nat) : List (Bool × ErrCode) :=
  [ (base % 4 == 0 && stride % 4 == 0 && bp % 8 == 0, .align),
    (channelsInRange base stride n c && inRange bp (8 * nblk), .range),
    (clearOfChannels bp (8 * nblk) base stride n c, .overlap) ]

/-- RES0..RES5 of a measurement (R220): loudness, G, NBLK, NABS, NREL, M1. -/
def State.setLufs (s : State) (nblk : Nat) (r : Gated) : State :=
  (((((s.setRes 0 (loudness r.g)).setRes 1 r.g).setRes 2 (BitVec.ofNat 64 nblk)).setRes 3 (BitVec.ofNat 64 r.nabs)).setRes 4
    (BitVec.ofNat 64 r.nrel)).setRes 5 r.m1

/-- R221: RES0..RES5 of a measurement of no channels: −∞, +0.0, 0, 0, 0, +0.0. -/
def State.setLufsEmpty (s : State) : State :=
  (((((s.setRes 0 (pack64 true infMag64)).setRes 1 0).setRes 2 0).setRes 3 0).setRes 4 0).setRes 5 0

/-- R220: LUFS_MEASURE C. The internal filters end as the K-weighting of the last channel leaves them (R66). -/
def execLufsMeasure (nch : BitVec 4) (s : State) : Host.Outcome State Fault Refusal :=
  let c := nch.toNat
  let base := s.argU 0
  let stride := s.argU 1
  let n := s.argU 2
  let bp := s.argU 4
  if Config.chMax < c then .next (s.raise .illcmd)
  else if c = 0 then .next s.setLufsEmpty.finish
  else
    match rateOf (s.argU 3) with
    | none => .next (s.raise .rate)
    | some rate =>
      let nblk := blockCount rate n
      match firstError (lufsChecks base stride n bp nblk c) with
      | some e => .next (s.raise e)
      | none =>
        let xs := (List.range c).map fun k => s.loadSamples (channelBase base stride k) n
        let ks := xs.map (kWeight rate)
        let ps := (List.range nblk).map (blockPower rate ks)
        .next (((s.setKwFilters rate (xs.getD (c - 1) [])).storePowers bp ps).setLufs nblk (gate ps)).finish

end Sys2Proof.Machine
end

