-- ==== Sys2Proof/Machine/Nop.lean ====
section
/-!
DEFINITION. NOP (spec 40_common.md R153).
-/

namespace Sys2Proof.Machine

/-- R153: NOP writes nothing but the STATUS update of R142. -/
def execNop (s : State) : Host.Outcome State Fault Refusal := .next s.finish

end Sys2Proof.Machine
end

