-- ==== Sys2Proof/Machine/TruePeak.lean ====
section
/-!
DEFINITION. TP_MEASURE (spec 44_truepeak.md). A channel is scanned with its history, the samples so far with the newest
first, so that `x[n − k]` is entry `k` of the history at time `n`.
-/

namespace Sys2Proof.Machine

/-- R276: the interpolated point of one phase, `Σ PH[p][k] · x[n − k]` in increasing `k`, from the history at time `n`. -/
def interpolate (phase hist : List B64) : B64 :=
  fsum ((phase.zip hist).map fun cx => fmul cx.1 cx.2)

/-- R277: the peak after sample `n` (the head of the history, of `n + 1` samples): the sample first, then, unless
`n < 11`, phases 0 to 3 in order. -/
def peakAt (peak : B64) (hist : List B64) (n : Nat) : B64 :=
  let p := fmax peak (fabs (hist.getD 0 0))
  if n < 11 then p
  else (List.range 4).foldl (fun p ph => fmax p (fabs (interpolate (tpPhase ph) hist))) p

/-- R277: the loop over the rest of a channel, with the peak, the history and the time so far. -/
def scanPeak (peak : B64) (hist : List B64) (n : Nat) : List B64 → B64
  | [] => peak
  | x :: xs => scanPeak (peakAt peak (x :: hist) n) (x :: hist) (n + 1) xs

/-- R277: `chanpeak(x, N)`. -/
def channelPeak (xs : List B64) : B64 := scanPeak 0 [] 0 xs

/-- R280: the maximum over the channels, from +0.0 in increasing `c`. -/
def truePeak (chans : List (List B64)) : B64 := chans.foldl (fun p xs => fmax p (channelPeak xs)) 0

/-- The checks of TP_MEASURE (R260): no rate check and no overlap check. -/
def tpChecks (base stride n c : Nat) : List (Bool × ErrCode) :=
  [ (base % 4 == 0 && stride % 4 == 0, .align),
    (channelsInRange base stride n c, .range) ]

/-- R260, R261: TP_MEASURE C. ARGL[3], the rate, is not looked at (R262). -/
def execTpMeasure (nch : BitVec 4) (s : State) : Host.Outcome State Fault Refusal :=
  let c := nch.toNat
  let base := s.argU 0
  let stride := s.argU 1
  let n := s.argU 2
  if Config.chMax < c then .next (s.raise .illcmd)
  else if c = 0 then .next (s.setRes 0 0).finish
  else
    match firstError (tpChecks base stride n c) with
    | some e => .next (s.raise e)
    | none =>
      let xs := (List.range c).map fun k => (s.loadSamples (channelBase base stride k) n).map widen
      .next (s.setRes 0 (truePeak xs)).finish

end Sys2Proof.Machine
end

