-- ==== Sys2Proof/Machine/Dispatch.lean ====
section
/-!
DEFINITION. The completion of each command (spec 40_common.md R142): one arm per constructor of `Instr`.
-/

namespace Sys2Proof.Machine

def exec (i : Instr) (s : State) : Host.Outcome State Fault Refusal :=
  match i with
  | .nop => Sys2Proof.Machine.execNop s
  | .bqLoad slot => Sys2Proof.Machine.execBqLoad slot s
  | .bqReset slot => Sys2Proof.Machine.execBqReset slot s
  | .bqStep slot => Sys2Proof.Machine.execBqStep slot s
  | .bqRun slot => Sys2Proof.Machine.execBqRun slot s
  | .kwApply => Sys2Proof.Machine.execKwApply s
  | .lufsMeasure nch => Sys2Proof.Machine.execLufsMeasure nch s
  | .tpMeasure nch => Sys2Proof.Machine.execTpMeasure nch s

end Sys2Proof.Machine
end

