-- ==== Sys2Proof/Machine/HostAccess.lean ====
section
/-!
DEFINITION. What a host access does (spec 10_state.md R33 to R45, 20_memory.md R84, R90): the register window and the
DMEM window as the host reads and writes them.
-/

namespace Sys2Proof.Machine

/-- The number of bytes of an access (R84). -/
def Width.bytes : Width → Nat
  | .w1 => 1
  | .w2 => 2
  | .w4 => 4
  | .w8 => 8

/-- The size of a window (R80). -/
def Window.bytes : Window → Nat
  | .regs => Config.regBytes
  | .dmem => Config.dmemBytes

/-- The host bus address of offset `off` of a window (R10, R80, R91; the bases are OPEN). -/
def Window.busAddress (win : Window) (off : Nat) : Nat :=
  match win with
  | .regs => Config.regBase + off
  | .dmem => Config.dmemBase + off

/-- R84: naturally aligned. -/
def Width.aligned (w : Width) (off : Nat) : Bool := off % w.bytes == 0

/-- R33: the ID register. -/
def idWord : B64 :=
  (0x4E454952 : BitVec 32) ++ (0x01 : BitVec 8) ++ (0x00 : BitVec 8)
    ++ BitVec.ofNat 8 Config.nbq ++ BitVec.ofNat 8 Config.chMax

/-- R34: CTRL as the host reads it; bit 0 IE, the rest 0 (SRST always reads 0). -/
def State.ctrlWord (s : State) : B64 := (0 : BitVec 63) ++ BitVec.ofBool s.ie

/-- R42: field `f` of a biquad; fields 9..15 do not exist and read 0 (R40). -/
def Biquad.field (q : Biquad) : Nat → B64
  | 0 => q.b0
  | 1 => q.b1
  | 2 => q.b2
  | 3 => q.a1
  | 4 => q.a2
  | 5 => q.x1
  | 6 => q.x2
  | 7 => q.y1
  | 8 => q.y2
  | _ => 0

/-- R42, R40: the slot register at byte `d` of the slot area; an absent slot reads 0. -/
def State.slotWord (s : State) (d : Nat) : B64 :=
  match s.slots[d / 0x80]? with
  | some q => q.field (d % 0x80 / 8)
  | none => 0

/-- The register at the 8-aligned offset `off` of the register window, as the host reads it (10_state.md section 2);
a reserved offset reads 0 (R40). -/
def State.regRead (s : State) (off : Nat) : B64 :=
  if off = 0x000 then idWord
  else if off = 0x008 then s.ctrlWord
  else if off = 0x010 then s.status.word
  else if off = 0x018 then 0
  else if off < 0x060 then (s.arg[(off - 0x020) / 8]?).getD 0
  else if off < 0x0A0 then (s.res[(off - 0x060) / 8]?).getD 0
  else if off < 0x100 then 0
  else if off < 0x900 then s.slotWord (off - 0x100)
  else if off < 0xC00 then 0
  else if off < 0xD80 then tpRom.getD ((off - 0xC00) / 8) 0
  else if off < 0xE00 then 0
  else if off < 0xEA0 then kwRom.getD ((off - 0xE00) / 8) 0
  else if off = 0xEA0 then cTabs
  else if off = 0xEA8 then cW51
  else if off = 0xEB0 then cLofs
  else 0

/-- R34, R341: a host write of `v` to CTRL. -/
def State.ctrlWrite (s : State) (v : B64) : State :=
  if v.getLsbD 1 then s.softReset else { s with ie := v.getLsbD 0 }

/-- A host write of `v` to the register at the 8-aligned offset `off`. Only CTRL, STATUS, CMD and ARG0..ARG7 can be
written; a write to a read-only register or a reserved offset is ignored (R40). -/
def State.regWrite (s : State) (off : Nat) (v : B64) : State :=
  if off = 0x008 then s.ctrlWrite v
  else if off = 0x010 then { s with status := s.status.writeOneToClear v }
  else if off = 0x018 then s.issue v
  else if off < 0x020 then s
  else if off < 0x060 then { s with arg := s.arg.setIfInBounds ((off - 0x020) / 8) v }
  else s

/-- The block answers `v` to the host's read. -/
def State.answer (s : State) (v : B64) : State := { s with readData := some v }

/-- R90: a host DMEM access while BUSY = 1 is refused and sets COLL. -/
def State.collide (s : State) : State := { s with status := s.status.collide }

/-- R41, R42: a host read of the register window; any access but an aligned 8-byte one reads 0. -/
def State.hostReadReg (s : State) (w : Width) (off : Nat) : State :=
  if w = .w8 ∧ w.aligned off then s.answer (s.regRead off) else s.answer 0

/-- R41: a host write of the register window; any access but an aligned 8-byte one is ignored. -/
def State.hostWriteReg (s : State) (w : Width) (off : Nat) (v : B64) : State :=
  if w = .w8 ∧ w.aligned off then s.regWrite off v else s

/-- R84, R90: a host read of DMEM. -/
def State.hostReadDmem (s : State) (w : Width) (off : Nat) : State :=
  if s.status.busy then (s.answer 0).collide
  else if w.aligned off then s.answer (BitVec.ofNat 64 (s.memRead off w.bytes))
  else s.answer 0

/-- R84, R90: a host write of DMEM. -/
def State.hostWriteDmem (s : State) (w : Width) (off : Nat) (v : B64) : State :=
  if s.status.busy then s.collide
  else if w.aligned off then s.memWrite off w.bytes v.toNat
  else s

/-- One host access (R9, R88: atomic). An offset outside the window does not reach the block (R84). -/
def hostAccess (s : State) : Access → Host.Outcome State Fault Refusal
  | .read .regs w off => if off < Config.regBytes then .next (s.hostReadReg w off) else .fault (.outsideWindow .regs off)
  | .read .dmem w off => if off < Config.dmemBytes then .next (s.hostReadDmem w off) else .fault (.outsideWindow .dmem off)
  | .write .regs w off v =>
    if off < Config.regBytes then .next (s.hostWriteReg w off v) else .fault (.outsideWindow .regs off)
  | .write .dmem w off v =>
    if off < Config.dmemBytes then .next (s.hostWriteDmem w off v) else .fault (.outsideWindow .dmem off)

end Sys2Proof.Machine
end

