-- ==== Sys2Proof/Machine/Engine.lean ====
section
/-!
DEFINITION. The engine's one step (spec 40_common.md R142) and what each turn does (00_scope.md R9).
-/

namespace Sys2Proof.Machine

/-- R142: the engine's one step. It is enabled exactly when BUSY = 1; the engine decodes CMDL and completes the
command, with ILLCMD if the value is illegal (R115). With BUSY = 0 the engine does nothing (R326). -/
def engineStep (s : State) : Host.Outcome State Fault Refusal :=
  if s.status.busy then
    match decode s.cmdl with
    | .ok i => exec i s
    | .error _ => .next (s.raise .illcmd)
  else .next s

/-- What a turn does: one host access, the completion, or a hard reset (R9, R340). -/
def takeTurn (s : State) : Turn → Host.Outcome State Fault Refusal
  | .engine => engineStep s
  | .host a => hostAccess s a
  | .hardReset => .next s.hardReset

end Sys2Proof.Machine
end

