-- ==== Sys2Proof/Machine/Step.lean ====
section
/-!
DEFINITION. One step of NEIRO-DSP (spec 00_scope.md R9): a host access, or the completion of the command in flight.
-/

namespace Sys2Proof.Machine

/-- One step: the first pending turn is taken. With nothing pending only the engine can move, so a command in flight
completes (R144, R351: eventually taken), and an idle block stays as it is (DESIGN CHOICE, log 2). -/
def step (s : State) : Host.Outcome State Fault Refusal :=
  match s.pending with
  | [] => engineStep s
  | turn :: rest => takeTurn { s with pending := rest } turn

/-- The state in which the CMD value with the bits `w` has just been accepted (R140) and the engine moves next, so that
the next step decodes and completes it. The block fetches no instructions (R31, R98): the host writes each command to
CMD, and this stands for that write (DESIGN CHOICE, log 2). -/
def State.withFetchWord (s : State) (nbits w : Nat) : State :=
  { s.accept (cmdBits nbits w) with pending := .engine :: s.pending }

end Sys2Proof.Machine
end

