-- ==== Sys2Proof/Safety.lean ====
section
/-!
DEFINITION. The terms the statements use: the invariant of the machine, what a safe script of turns is, which state is
hidden from the host, the real value of a floating-point pattern and what correct rounding of a real value means. Where a
term restates a rule of the spec (a status after completion, a filter after `i` samples, a block power) it is written
from the rule and not from the model's own definition.
-/

namespace Sys2Proof.Machine

/-! ### The invariant and safe scripts -/

/-- What holds of every state the machine can be in: DMEM keeps its canonical form inside DMEM_BYTES (R80); RES6 and RES7
are never written (R39); a command in flight has not completed, so DONE is 0 (R35, R140); ERRCODE is a code of R300. -/
structure State.Inv (s : State) : Prop where
  dmem : Dmem.wf s.dmem = true
  res6 : s.res[6] = 0
  res7 : s.res[7] = 0
  busy : s.status.busy = true → s.status.done = false
  errcode : s.status.errcode.toNat ≤ 5

/-- The window of an access. -/
def Access.window : Access → Window
  | .read win _ _ => win
  | .write win _ _ _ => win

/-- The offset of an access in its window. -/
def Access.offset : Access → Nat
  | .read _ _ off => off
  | .write _ _ off _ => off

/-- The access reaches the block: its offset is inside its window (R84). -/
def Access.inside (a : Access) : Prop := a.offset < a.window.bytes

/-- A turn that cannot stop the machine. -/
def Turn.safe : Turn → Prop
  | .host a => a.inside
  | .engine => True
  | .hardReset => True

/-- The turn is a host access inside its window. -/
def Turn.isHostInside : Turn → Prop
  | .host a => a.inside
  | _ => False

/-- A CTRL write with SRST = 1 (R341). -/
def Access.isSoftReset : Access → Prop
  | .write .regs .w8 0x008 v => v.getLsbD 1 = true
  | _ => False

/-- Two states that the host cannot tell apart by R66 and R67: equal but for KWPRE and KWRLB, and, while no command is in
flight, for the latches. -/
def State.hiddenEq (s t : State) : Prop :=
  { s with kwpre := t.kwpre, kwrlb := t.kwrlb, cmdl := t.cmdl, argl := t.argl } = t ∧
    (s.status.busy = true → s.cmdl = t.cmdl ∧ s.argl = t.argl)

/-! ### Completion, as R142 and R306 give it -/

/-- STATUS after a completion with success (R142). -/
def State.succeeded (s : State) : Status :=
  { s.status with busy := false, done := true, errcode := 0x00, lastop := s.cmdl.extractLsb' 0 8 }

/-- STATUS after a completion with error code `code` (R142, R306). -/
def State.failed (s : State) (code : BitVec 8) : Status :=
  { s.status with busy := false, done := true, err := true, errcode := code, lastop := s.cmdl.extractLsb' 0 8 }

/-- The slot number a command names, if it names one (R110, R112). -/
def namedSlot : Instr → Option Nat
  | .bqLoad slot => some slot.toNat
  | .bqReset slot => some slot.toNat
  | .bqStep slot => some slot.toNat
  | .bqRun slot => some slot.toNat
  | .nop => none
  | .kwApply => none
  | .lufsMeasure _ => none
  | .tpMeasure _ => none

/-- The codes a legal command can report (R301), 0x00 included. -/
def reportable : Instr → List (BitVec 8)
  | .nop => [0x00]
  | .bqLoad _ => [0x00]
  | .bqReset _ => [0x00]
  | .bqStep _ => [0x00]
  | .bqRun _ => [0x00, 0x03, 0x04, 0x05]
  | .kwApply => [0x00, 0x02, 0x03, 0x04, 0x05]
  | .lufsMeasure nch => if nch = 0 then [0x00] else [0x00, 0x02, 0x03, 0x04, 0x05]
  | .tpMeasure nch => if nch = 0 then [0x00] else [0x00, 0x03, 0x04]

/-! ### Signals, by index -/

/-- R169, over an input signal: the filter after the first `n` inputs. -/
def biquadAfter (f : Biquad) (x : Nat → B64) : Nat → Biquad
  | 0 => f
  | n + 1 => (df1 (biquadAfter f x n) (x n)).2

/-- R169: output `i` of the filter over an input signal. -/
def biquadOutput (f : Biquad) (x : Nat → B64) (i : Nat) : B64 := (df1 (biquadAfter f x i) (x i)).1

/-- The patterns of the table of R201, in the order of its KWC index. -/
def kwPatterns : List B64 :=
  [0x3FF88FDF15B33DF7, 0xC005889803022552, 0x3FF32C9DF0A5FDF9, 0xBFFB0CF0C24E59D0, 0x3FE7707B85469635,
   0x3FF0000000000000, 0xC000000000000000, 0x3FF0000000000000, 0xBFFFD73BFFFFFFEC, 0x3FEFAEABFFFFFFF8,
   0x3FF87E535FA6EB57, 0xC0053534FFEC4872, 0x3FF2B48C43EB2E1D, 0xBFFA9E54D2F41FE2, 0x3FE6CD94ED5B50E2,
   0x3FF0000000000000, 0xC000000000000000, 0x3FF0000000000000, 0xBFFFD3A39466F59F, 0x3FEFA784BC7E1509]

/-- The patterns of the table of R275, in the order of its TPC index. -/
def tpPatterns : List B64 :=
  [0xBC3A6CCBF887D5EC, 0x3C5B4173BFC35023, 0xBC6E5519109F9B93, 0x3C798A424B1DDD9E,
   0xBC81D2A6A7E5088A, 0x3C8566D805CC959E, 0x3FF0000000000000, 0x3C84B62CC122AEAC,
   0xBC80A5940BE0F78E, 0x3C76DE5063BEB31F, 0xBC69A3F829354AD7, 0x3C54D5616AD1488A,
   0xBF62C6E1CE9F8A90, 0x3F82A3152F9C9A4D, 0xBF982524175A78A4, 0x3FAA4EF515C8D3F8,
   0xBFBBB7E8EB294FE1, 0x3FD2C1D6AA5EA74E, 0x3FEC989FCD5590F0, 0xBFC465B69BEE4D5D,
   0x3FB18F30F9D254C5, 0xBF9FEEA104CDDA3D, 0x3F89AD5FA9EB9546, 0xBF6DD297713DB9C7,
   0xBF74225E398A51E9, 0x3F9126F1435569C8, 0xBFA4F8CA195AC639, 0x3FB65ADE13AE26A5,
   0xBFC80B60F439346D, 0x3FE439C0214AF938, 0x3FE3E662B8DB6877, 0xBFC6DF486C89DE11,
   0x3FB477DECF02216D, 0xBFA24C1610921831, 0x3F8BD3F3F8C6964C, 0xBF6BC4B937892CEF,
   0xBF745E132BF11AE1, 0x3F8EF70CDEF187E6, 0xBFA20EB5C59C87BE, 0x3FB2FC9F8A1BBB1F,
   0xBFC542BEDF69F8B4, 0x3FECD5804D5CFB0C, 0x3FD24EBFAB1F1481, 0xBFBA22E120E80C49,
   0x3FA7D57485C7163E, 0xBF94C1FA1BA3443F, 0x3F7D73687ADFF0BB, 0xBF579662EF5F185A]

/-- R203: a fresh filter with the coefficients of the rate's row of R201; `g` is 0 for the pre-filter, 1 for RLB. -/
def freshKw (r : KwRate) (g : Nat) : Biquad :=
  let at5 := match r with
    | .hz48000 => 5 * g
    | .hz44100 => 10 + 5 * g
  { b0 := kwPatterns.getD at5 0, b1 := kwPatterns.getD (at5 + 1) 0, b2 := kwPatterns.getD (at5 + 2) 0,
    a1 := kwPatterns.getD (at5 + 3) 0, a2 := kwPatterns.getD (at5 + 4) 0, x1 := 0, x2 := 0, y1 := 0, y2 := 0 }

/-- R203: sample `i` of the intermediate buffer `m`. -/
def kwMid (r : KwRate) (x : Nat → B32) (i : Nat) : B32 := round32 (biquadOutput (freshKw r 0) (fun j => widen (x j)) i)

/-- R203: sample `i` of the K-weighted channel. -/
def kwOut (r : KwRate) (x : Nat → B32) (i : Nat) : B32 :=
  round32 (biquadOutput (freshKw r 1) (fun j => widen (kwMid r x j)) i)

/-- R20: `Σ_{i<n} t i`, from +0.0 in increasing order. -/
def sumUpTo (n : Nat) (t : Nat → B64) : B64 := (List.range n).foldl (fun acc i => fadd acc (t i)) 0

/-- R222: the block length B. -/
def lengthB : KwRate → Nat
  | .hz48000 => 19200
  | .hz44100 => 17640

/-- R222: the hop H. -/
def hopH : KwRate → Nat
  | .hz48000 => 4800
  | .hz44100 => 4410

/-- R224: B as a `b64`, 19200.0 or 17640.0, by its pattern. -/
def lengthPattern : KwRate → B64
  | .hz48000 => 0x40D2C00000000000
  | .hz44100 => 0x40D13A0000000000

/-- R224: the mean square over the B samples from sample `start` on. -/
def meanSquareFrom (r : KwRate) (start : Nat) (k : Nat → B32) : B64 :=
  fdiv (sumUpTo (lengthB r) fun i => fmul (widen (k (start + i))) (widen (k (start + i)))) (lengthPattern r)

/-- R207: the channel weight, with W51 as its pattern. -/
def weightOf (nch c : Nat) : B64 :=
  if nch = 6 ∧ c = 3 then 0 else if nch = 6 ∧ (c = 4 ∨ c = 5) then 0x3FF699C0F7E86DFC else 0x3FF0000000000000

/-- R225: the weighted power of block `j` of `nch` K-weighted channels `k c`. -/
def powerOf (r : KwRate) (nch : Nat) (k : Nat → Nat → B32) (j : Nat) : B64 :=
  sumUpTo nch fun c => fmul (weightOf nch c) (meanSquareFrom r (j * hopH r) (k c))

/-- R229, R231: the mean of the powers with the indices `js`, +0.0 when there are none. -/
def meanOf (p : Nat → B64) (js : List Nat) : B64 :=
  if js = [] then 0 else fdiv (js.foldl (fun acc j => fadd acc (p j)) 0) (natToB64 js.length)

/-- R228: the indices below `nblk` whose power is above T_ABS. -/
def survivorsAbs (p : Nat → B64) (nblk : Nat) : List Nat :=
  (List.range nblk).filter fun j => flt 0x3E7F791EC6E1D5B7 (p j)

/-- R230: of those, the indices whose power is at least M1 / 10.0. -/
def survivorsRel (p : Nat → B64) (js : List Nat) : List Nat :=
  js.filter fun j => fle (fdiv (meanOf p js) 0x4024000000000000) (p j)

/-- R276: the interpolated point of phase `ph` at time `n`. -/
def pointAt (x : Nat → B64) (n ph : Nat) : B64 :=
  sumUpTo 12 fun k => fmul (tpPatterns.getD (12 * ph + k) 0) (x (n - k))

/-- R277: the document's loop over the first `n` samples. -/
def peakOf (x : Nat → B64) : Nat → B64
  | 0 => 0
  | n + 1 =>
    let p := fmax (peakOf x n) (fabs (x n))
    if n < 11 then p
    else fmax (fmax (fmax (fmax p (fabs (pointAt x n 0))) (fabs (pointAt x n 1))) (fabs (pointAt x n 2))) (fabs (pointAt x n 3))

/-- R185: the state after `n` commands BQ_STEP on one slot, command `i` with ARGL[0] = `x i`. -/
def stepMany (slot : BitVec 4) (x : Nat → B64) (s : State) : Nat → Option State
  | 0 => some s
  | n + 1 =>
    match stepMany slot x s n with
    | none => none
    | some u =>
      match exec (.bqStep slot) { u with argl := u.argl.set 0 (x n) } with
      | .next t => some t
      | .fault _ => none
      | .refused _ => none

/-! ### The value of a pattern, and correct rounding -/

/-- The `b64` infinities, by their patterns. -/
def inf64 (neg : Bool) : B64 := if neg then 0xFFF0000000000000 else 0x7FF0000000000000

/-- The exponent field of a `b64` is not all ones. -/
def finite64 (v : B64) : Prop := v.extractLsb' 52 11 ≠ 0x7FF

/-- A `b64` NaN: the exponent field all ones, the fraction field not 0. -/
def nanPattern64 (v : B64) : Prop := v.extractLsb' 52 11 = 0x7FF ∧ v.extractLsb' 0 52 ≠ 0

/-- The rational value of a finite `b64`. -/
def val64 (v : B64) : ℚ :=
  (if v.getLsbD 63 then -1 else 1) *
    (if v.extractLsb' 52 11 = 0 then ((v.extractLsb' 0 52).toNat : ℚ) * (2 : ℚ) ^ (-1074 : ℤ)
     else ((2 ^ 52 + (v.extractLsb' 0 52).toNat : Nat) : ℚ) * (2 : ℚ) ^ (((v.extractLsb' 52 11).toNat : ℤ) - 1075))

/-- The exponent field of a `b32` is not all ones. -/
def finite32 (v : B32) : Prop := v.extractLsb' 23 8 ≠ 0xFF

/-- A `b32` NaN. -/
def nanPattern32 (v : B32) : Prop := v.extractLsb' 23 8 = 0xFF ∧ v.extractLsb' 0 23 ≠ 0

/-- The rational value of a finite `b32`. -/
def val32 (v : B32) : ℚ :=
  (if v.getLsbD 31 then -1 else 1) *
    (if v.extractLsb' 23 8 = 0 then ((v.extractLsb' 0 23).toNat : ℚ) * (2 : ℚ) ^ (-149 : ℤ)
     else ((2 ^ 23 + (v.extractLsb' 0 23).toNat : Nat) : ℚ) * (2 : ℚ) ^ (((v.extractLsb' 23 8).toNat : ℤ) - 150))

/-- R19: `r` is the real `q` rounded to binary64, to nearest with ties to even: at or beyond 2^1024 − 2^970 infinity of
the sign of `q`, else a finite datum that no finite datum is nearer than, with an even last bit when another is as near. -/
def roundsTo64 (q : ℚ) (r : B64) : Prop :=
  if |q| < 2 ^ 1024 - 2 ^ 970 then
    finite64 r ∧ (∀ y, finite64 y → |q - val64 r| ≤ |q - val64 y|) ∧
      (∀ y, finite64 y → val64 y ≠ val64 r → |q - val64 y| = |q - val64 r| → r.getLsbD 0 = false)
  else r = if q < 0 then 0xFFF0000000000000 else 0x7FF0000000000000

/-- R23: `r` is the real `q` rounded to binary32, to nearest with ties to even; the threshold is 2^128 − 2^103. -/
def roundsTo32 (q : ℚ) (r : B32) : Prop :=
  if |q| < 2 ^ 128 - 2 ^ 103 then
    finite32 r ∧ (∀ y, finite32 y → |q - val32 r| ≤ |q - val32 y|) ∧
      (∀ y, finite32 y → val32 y ≠ val32 r → |q - val32 y| = |q - val32 r| → r.getLsbD 0 = false)
  else r = if q < 0 then 0xFF800000 else 0x7F800000

end Sys2Proof.Machine
end

