-- ==== Sys2Proof/Certificates/Slice0/Obligations.lean ====
section
/-!
DEFINITION. The statements for the provers, in the order of the spec's files: encoding, the step, host accesses, DMEM,
the whole machine, the commands, the arithmetic. A statement about a command says what it does on every operand: where it
succeeds, the next state in full (every field that is not named is equal); where it fails, the error it reports.
-/

open Sys2Proof Sys2Proof.Machine

/-! ### Encoding (30_encoding.md) -/

/-- R112, R115: decoding the CMD value of a legal command gives the command back. -/
def Obligations.DecodeOfEncode : Prop :=
  ∀ i : Instr, i.wellFormed = true → decode (cmdValue i) = .ok i

/-- R112, R117: a CMD value that decodes is the CMD value of the command it decodes to, which is legal. -/
def Obligations.EncodeOfDecode : Prop :=
  ∀ (v : B64) (i : Instr), decode v = .ok i → cmdValue i = v ∧ i.wellFormed = true

/-- R115: a CMD value is refused by the decoder exactly when one of the six conditions holds, and the engine then
completes it with ILLCMD, changing STATUS alone. -/
def Obligations.IllegalValuesComplete : Prop :=
  (∀ v : B64, (∃ e, decode v = .error e) ↔
    (v.extractLsb' 16 48 ≠ 0 ∨
     v.extractLsb' 0 8 ∉ ([0x00, 0x10, 0x11, 0x12, 0x13, 0x20, 0x30, 0x40] : List (BitVec 8)) ∨
     (v.extractLsb' 0 8 ∈ ([0x00, 0x20, 0x30, 0x40] : List (BitVec 8)) ∧ v.extractLsb' 8 4 ≠ 0) ∨
     (v.extractLsb' 0 8 ∈ ([0x00, 0x10, 0x11, 0x12, 0x13, 0x20] : List (BitVec 8)) ∧ v.extractLsb' 12 4 ≠ 0) ∨
     (v.extractLsb' 0 8 ∈ ([0x10, 0x11, 0x12, 0x13] : List (BitVec 8)) ∧ Config.nbq ≤ (v.extractLsb' 8 4).toNat) ∨
     (v.extractLsb' 0 8 ∈ ([0x30, 0x40] : List (BitVec 8)) ∧ Config.chMax < (v.extractLsb' 12 4).toNat))) ∧
  ∀ (s : State) (e : DecodeError) (rest : List Turn), s.status.busy = true → decode s.cmdl = .error e →
    s.pending = .engine :: rest → step s = .next { s with pending := rest, status := s.failed 0x01 }

/-- R112, R118: words written out by hand from the encoding table decode to the commands they stand for. -/
def Obligations.WrittenOutWordsDecode : Prop :=
  decodeTableWord 32 0x00000000 = some .nop ∧ decodeTableWord 32 0x00000310 = some (.bqLoad 3) ∧
  decodeTableWord 32 0x00000011 = some (.bqReset 0) ∧ decodeTableWord 32 0x00000112 = some (.bqStep 1) ∧
  decodeTableWord 32 0x00000213 = some (.bqRun 2) ∧ decodeTableWord 32 0x00000020 = some .kwApply ∧
  decodeTableWord 32 0x00002030 = some (.lufsMeasure 2) ∧ decodeTableWord 32 0x00008040 = some (.tpMeasure 8) ∧
  decodeTableWord 32 0x00000413 = none ∧ decodeTableWord 32 0x00009030 = none

/-! ### The step (00_scope.md R9, 40_common.md) -/

/-- When a command is in flight and the engine moves next (its turn is first, or nothing is pending), a step is `exec` of
the decoded command at the state with that turn taken away. That the order of turns is a list in the state is the model's
choice (log 2). -/
def Obligations.StepRunsDecodedCommand : Prop :=
  ∀ (s : State) (i : Instr), s.status.busy = true → decode s.cmdl = .ok i →
    (∀ rest, s.pending = .engine :: rest → step s = exec i { s with pending := rest }) ∧
    (s.pending = [] → step s = exec i s)

/-- R142, R143, R306: with BUSY = 1 the engine's step always completes the command in flight. (That an engine turn on an
idle block is a step that changes nothing is the model's choice, log 2: R142 says only that the step is not enabled.) BUSY
becomes 0, DONE 1, LASTOP the opcode byte; OVR, COLL and every register that no command writes are unchanged; ERR is
unchanged on success; and on an error (ERRCODE not 0x00) nothing but STATUS changes and ERR becomes 1. -/
def Obligations.EngineStepCompletes : Prop :=
  ∀ (s : State) (rest : List Turn), s.pending = .engine :: rest →
    (s.status.busy = false → step s = .next { s with pending := rest }) ∧
    (s.status.busy = true → ∃ t, step s = .next t ∧
      t = { s with pending := rest, status := t.status, slots := t.slots, res := t.res, dmem := t.dmem,
                   kwpre := t.kwpre, kwrlb := t.kwrlb } ∧
      t.status.busy = false ∧ t.status.done = true ∧ t.status.lastop = s.cmdl.extractLsb' 0 8 ∧
      t.status.ovr = s.status.ovr ∧ t.status.coll = s.status.coll ∧
      (t.status.errcode = 0x00 → t.status.err = s.status.err) ∧
      (t.status.errcode ≠ 0x00 → t = { s with pending := rest, status := s.failed t.status.errcode }))

/-- R300, R301: a legal command reports no code but those of its row of the table. -/
def Obligations.ErrorCodesByCommand : Prop :=
  ∀ (i : Instr) (s t : State), i.wellFormed = true → exec i s = .next t → t.status.errcode ∈ reportable i

/-- R140: a host write of any value to CMD while BUSY = 0 is accepted. -/
def Obligations.AcceptLatchesCommand : Prop :=
  ∀ (s : State) (v : B64) (rest : List Turn), s.pending = .host (.write .regs .w8 0x018 v) :: rest →
    s.status.busy = false →
    step s = .next { s with pending := rest, cmdl := v, argl := s.arg,
                            status := { s.status with busy := true, done := false } }

/-- R145: a host write to CMD while BUSY = 1 is dropped and sets OVR. -/
def Obligations.OverrunKeepsCommand : Prop :=
  ∀ (s : State) (v : B64) (rest : List Turn), s.pending = .host (.write .regs .w8 0x018 v) :: rest →
    s.status.busy = true →
    step s = .next { s with pending := rest, status := { s.status with ovr := true } }

/-! ### The register window (10_state.md) -/

/-- R36: a host write to STATUS clears exactly the W1C bits that are 1 in it, whether BUSY is 0 or 1. -/
def Obligations.StatusWriteOneToClear : Prop :=
  ∀ (s : State) (v : B64) (rest : List Turn), s.pending = .host (.write .regs .w8 0x010 v) :: rest →
    step s = .next { s with
      pending := rest
      status := { s.status with
        done := if v.getLsbD 1 then false else s.status.done
        err := if v.getLsbD 2 then false else s.status.err
        ovr := if v.getLsbD 3 then false else s.status.ovr
        coll := if v.getLsbD 4 then false else s.status.coll } }

/-- R341 and the write side of R34: a CTRL write with bit 1 = 1 is a soft reset, whatever its other bits, and leaves DMEM
unchanged; with bit 1 = 0 it sets IE to bit 0 and disturbs nothing else. That a soft reset keeps KWPRE, KWRLB, CMDL and
ARGL, which R70 leaves unspecified or without meaning, is the model's choice (log 5). -/
def Obligations.CtrlWriteResetsOrEnables : Prop :=
  ∀ (s : State) (v : B64) (rest : List Turn), s.pending = .host (.write .regs .w8 0x008 v) :: rest →
    (v.getLsbD 1 = true → step s = .next { s with
      pending := rest
      ie := false
      status := { busy := false, done := false, err := false, ovr := false, coll := false, errcode := 0, lastop := 0 }
      arg := #v[0, 0, 0, 0, 0, 0, 0, 0]
      res := #v[0, 0, 0, 0, 0, 0, 0, 0]
      slots := #v[Biquad.unity, Biquad.unity, Biquad.unity, Biquad.unity] }) ∧
    (v.getLsbD 1 = false → step s = .next { s with pending := rest, ie := v.getLsbD 0 })

/-- R342: a reset while a command is in flight aborts it. From an idle block, a command accepted and then reset, with an
engine turn after the reset, leaves what the reset alone leaves (but for the latches after a soft reset, which have no
meaning, R67): no write of the command, no DONE, no ERRCODE. What the latches hold after either reset is the model's choice
(log 5), and so is the engine turn on the idle block (log 2). -/
def Obligations.ResetAbortsCommand : Prop :=
  ∀ (s : State) (v c : B64), s.status.busy = false → c.getLsbD 1 = true →
    (∃ t u, Host.Core.run core 3 { s with pending :=
        [.host (.write .regs .w8 0x018 v), .host (.write .regs .w8 0x008 c), .engine] } = .next t ∧
      Host.Core.run core 2 { s with pending := [.host (.write .regs .w8 0x008 c), .engine] } = .next u ∧
      t = { u with cmdl := v, argl := s.arg } ∧ t.status.done = false ∧ t.status.errcode = 0) ∧
    (∃ t u, Host.Core.run core 3 { s with pending :=
        [.host (.write .regs .w8 0x018 v), .hardReset, .engine] } = .next t ∧
      Host.Core.run core 2 { s with pending := [.hardReset, .engine] } = .next u ∧
      t = u ∧ t.status.done = false ∧ t.status.errcode = 0)

/-- R61, R70, R340: what a hard reset leaves, and that `State.reset` has it too: CTRL, STATUS, ARG and RES 0, every slot
the unity biquad with zero state, IRQ 0, no command in flight, and every DMEM byte the unspecified byte of that reset. The counter
of resets and the form of the unspecified bytes are the model's (log 3). -/
def Obligations.HardResetResult : Prop :=
  ∀ (s : State) (rest : List Turn), s.pending = .hardReset :: rest → ∃ t, step s = .next t ∧
    t.pending = rest ∧ t.resets = s.resets + 1 ∧
    ∀ r, r = t ∨ r = State.reset →
      r.ie = false ∧ r.irq = false ∧ r.status.word = 0 ∧ r.status.busy = false ∧
      (∀ i : Fin 8, r.arg[i] = 0 ∧ r.res[i] = 0) ∧
      (∀ k : Fin Config.nbq, r.slots[k] =
        { b0 := 0x3FF0000000000000, b1 := 0, b2 := 0, a1 := 0, a2 := 0, x1 := 0, x2 := 0, y1 := 0, y2 := 0 }) ∧
      ∀ a, r.byteAt a = Config.unwrittenByte r.resets a

/-- R69, R310: IRQ is CTRL.IE ∧ STATUS.DONE as the host reads the two registers. With IE = 1 every completion raises it; a
STATUS write with bit 1, the accept of a command and either reset clear it; a CTRL write that is no reset leaves DONE and
makes IRQ what its IE bit and DONE give; and every other host access that reaches the block, overruns and collisions
among them, leaves IRQ as it is. -/
def Obligations.InterruptFollowsDone : Prop :=
  (∀ s : State, s.irq = ((s.regRead 0x008).getLsbD 0 && (s.regRead 0x010).getLsbD 1)) ∧
  (∀ (s : State) (rest : List Turn), s.pending = .engine :: rest → s.status.busy = true →
    ∃ t, step s = .next t ∧ t.irq = s.ie) ∧
  (∀ (s : State) (v : B64), v.getLsbD 1 = true →
    ∃ t, hostAccess s (.write .regs .w8 0x010 v) = .next t ∧ t.irq = false) ∧
  (∀ (s : State) (v : B64), v.getLsbD 1 = false → ∃ t, hostAccess s (.write .regs .w8 0x008 v) = .next t ∧
    t.irq = (v.getLsbD 0 && s.status.done) ∧ t.status = s.status) ∧
  (∀ (s : State) (v : B64), s.status.busy = false →
    ∃ t, hostAccess s (.write .regs .w8 0x018 v) = .next t ∧ t.irq = false) ∧
  (∀ (s : State) (v : B64), v.getLsbD 1 = true →
    ∃ t, hostAccess s (.write .regs .w8 0x008 v) = .next t ∧ t.irq = false) ∧
  (∀ (s : State) (rest : List Turn), s.pending = .hardReset :: rest → ∃ t, step s = .next t ∧ t.irq = false) ∧
  ∀ (s : State) (a : Access), a.inside →
    (∀ v, a = .write .regs .w8 0x010 v → v.getLsbD 1 = false) →
    (∀ v, a ≠ .write .regs .w8 0x008 v) →
    (∀ v, a = .write .regs .w8 0x018 v → s.status.busy = true) →
    ∃ t, hostAccess s a = .next t ∧ t.irq = s.irq

/-- R33, R34, R35, R37, R38, R39, R42, R43, R44, R45: what an aligned 8-byte host read of each register answers, the
ROM words by their patterns in R201 and R275. It changes nothing else. -/
def Obligations.RegisterMapReads : Prop :=
  ∀ s : State,
    let reads := fun (off : Nat) (v : B64) => hostAccess s (.read .regs .w8 off) = .next { s with readData := some v }
    reads 0x000 0x4E45495201000408 ∧
    reads 0x008 (if s.ie then 1 else 0) ∧
    (∃ w, reads 0x010 w ∧ w.getLsbD 0 = s.status.busy ∧ w.getLsbD 1 = s.status.done ∧ w.getLsbD 2 = s.status.err ∧
      w.getLsbD 3 = s.status.ovr ∧ w.getLsbD 4 = s.status.coll ∧ w.extractLsb' 5 3 = 0 ∧
      w.extractLsb' 8 8 = s.status.errcode ∧ w.extractLsb' 16 8 = s.status.lastop ∧ w.extractLsb' 24 40 = 0) ∧
    reads 0x018 0 ∧
    (∀ i : Fin 8, reads (0x020 + 8 * i) s.arg[i]) ∧
    (∀ i : Fin 8, reads (0x060 + 8 * i) s.res[i]) ∧
    (∀ k : Fin Config.nbq,
      reads (0x100 + 0x80 * k) s.slots[k].b0 ∧ reads (0x108 + 0x80 * k) s.slots[k].b1 ∧
      reads (0x110 + 0x80 * k) s.slots[k].b2 ∧ reads (0x118 + 0x80 * k) s.slots[k].a1 ∧
      reads (0x120 + 0x80 * k) s.slots[k].a2 ∧ reads (0x128 + 0x80 * k) s.slots[k].x1 ∧
      reads (0x130 + 0x80 * k) s.slots[k].x2 ∧ reads (0x138 + 0x80 * k) s.slots[k].y1 ∧
      reads (0x140 + 0x80 * k) s.slots[k].y2) ∧
    (∀ p k, p < 4 → k < 12 → reads (0xC00 + 8 * (12 * p + k)) (tpPatterns.getD (12 * p + k) 0)) ∧
    (∀ r g c, r < 2 → g < 2 → c < 5 → reads (0xE00 + 8 * (10 * r + 5 * g + c)) (kwPatterns.getD (10 * r + 5 * g + c) 0)) ∧
    reads 0xEA0 0x3E7F791EC6E1D5B7 ∧ reads 0xEA8 0x3FF699C0F7E86DFC ∧ reads 0xEB0 0xBFE61CAC083126E9

/-- R40: a reserved offset, an absent slot and a slot field 9..15 read as 0; a write to any of them or to a read-only
register is ignored. -/
def Obligations.ReservedOffsetsAreInert : Prop :=
  ∀ (s : State) (off : Nat) (v : B64), off % 8 = 0 → off < Config.regBytes →
    ((0x0A0 ≤ off ∧ off < 0x100 ∨
      0x100 ≤ off ∧ off < 0x900 ∧ (Config.nbq ≤ (off - 0x100) / 0x80 ∨ 9 ≤ (off - 0x100) % 0x80 / 8) ∨
      0x900 ≤ off ∧ off < 0xC00 ∨ 0xD80 ≤ off ∧ off < 0xE00 ∨ 0xEB8 ≤ off) →
      hostAccess s (.read .regs .w8 off) = .next { s with readData := some 0 }) ∧
    (off = 0x000 ∨ 0x060 ≤ off → hostAccess s (.write .regs .w8 off v) = .next s)

/-- R41: an access to the register window that is not a naturally aligned 8-byte access reads 0 and writes nothing; one
that is reads the whole register. -/
def Obligations.OtherRegisterAccessIsRefused : Prop :=
  ∀ (s : State) (w : Width) (off : Nat) (v : B64), off < Config.regBytes →
    (w ≠ .w8 ∨ off % 8 ≠ 0 →
      hostAccess s (.read .regs w off) = .next { s with readData := some 0 } ∧
      hostAccess s (.write .regs w off v) = .next s) ∧
    (w = .w8 → off % 8 = 0 → hostAccess s (.read .regs w off) = .next { s with readData := some (s.regRead off) })

/-- R38: a host write to ARG0..ARG7 changes that register alone, so a command in flight keeps its latches. -/
def Obligations.ArgWriteKeepsLatches : Prop :=
  ∀ (s : State) (i : Fin 8) (v : B64),
    hostAccess s (.write .regs .w8 (0x020 + 8 * i) v) = .next { s with arg := s.arg.set i v }

/-! ### DMEM (20_memory.md) -/

/-- R81: `MemRead` is the little-endian sum of the bytes, `MemWrite` stores the bytes of the value and touches no other
byte, and so a read of what was written gives it back. -/
def Obligations.MemoryIsLittleEndian : Prop :=
  ∀ (s : State) (a n v : Nat),
    s.memRead a n = ∑ j ∈ Finset.range n, (s.byteAt (a + j)).toNat * 256 ^ j ∧
    (∀ j, j < n → (s.memWrite a n v).byteAt (a + j) = BitVec.ofNat 8 (v / 2 ^ (8 * j))) ∧
    (∀ a', a' < a ∨ a + n ≤ a' → (s.memWrite a n v).byteAt a' = s.byteAt a') ∧
    (s.memWrite a n v).memRead a n = v % 256 ^ n

/-- R84: a host access to DMEM with BUSY = 0. Aligned, it reads or writes its bytes; misaligned, it is ignored or reads 0;
outside DMEM it does not reach the block, where that the machine stops with a fault is the model's choice (log 6). -/
def Obligations.HostDmemAccess : Prop :=
  ∀ (s : State) (w : Width) (off : Nat) (v : B64), s.status.busy = false →
    (off < Config.dmemBytes → off % w.bytes = 0 →
      hostAccess s (.read .dmem w off) = .next { s with readData := some (BitVec.ofNat 64
        (∑ j ∈ Finset.range w.bytes, (s.byteAt (off + j)).toNat * 256 ^ j)) } ∧
      ∃ t, hostAccess s (.write .dmem w off v) = .next t ∧ t = { s with dmem := t.dmem } ∧
        (∀ j, j < w.bytes → t.byteAt (off + j) = BitVec.ofNat 8 (v.toNat / 2 ^ (8 * j))) ∧
        ∀ a, a < off ∨ off + w.bytes ≤ a → t.byteAt a = s.byteAt a) ∧
    (off < Config.dmemBytes → off % w.bytes ≠ 0 →
      hostAccess s (.read .dmem w off) = .next { s with readData := some 0 } ∧
      hostAccess s (.write .dmem w off v) = .next s) ∧
    (Config.dmemBytes ≤ off →
      hostAccess s (.read .dmem w off) = .fault (.outsideWindow .dmem off) ∧
      hostAccess s (.write .dmem w off v) = .fault (.outsideWindow .dmem off))

/-- R90: while BUSY = 1 a host access to DMEM, aligned or not, reads 0 or is dropped, and sets COLL; an access to the
register window reads as always and never sets COLL. -/
def Obligations.CollisionWhileBusy : Prop :=
  ∀ (s : State) (w : Width) (off : Nat) (v : B64), s.status.busy = true →
    (off < Config.dmemBytes →
      hostAccess s (.read .dmem w off) =
        .next { s with readData := some 0, status := { s.status with coll := true } } ∧
      hostAccess s (.write .dmem w off v) = .next { s with status := { s.status with coll := true } }) ∧
    (off < Config.regBytes →
      (∃ d, hostAccess s (.read .regs w off) = .next { s with readData := some d } ∧
        d = if w = .w8 ∧ off % 8 = 0 then s.regRead off else 0) ∧
      ∃ t, hostAccess s (.write .regs w off v) = .next t ∧ t.dmem = s.dmem ∧
        (t.status.coll = true → s.status.coll = true))

/-! ### The whole machine -/

/-- The invariant holds after reset. -/
def Obligations.ResetMeetsInvariant : Prop := State.reset.Inv

/-- Every step keeps the invariant: DMEM canonical and inside DMEM_BYTES, RES6 = RES7 = 0, DONE = 0 while BUSY = 1,
ERRCODE a code of R300. -/
def Obligations.StepKeepsInvariant : Prop :=
  ∀ s t : State, s.Inv → step s = .next t → t.Inv

/-- R84, R117: no step is ever refused, and a step faults exactly when the next turn is a host access outside its
window (the model's form of "does not reach the block", log 6). -/
def Obligations.OnlyOutsideAccessStops : Prop :=
  ∀ s : State, (∃ t, step s = .next t) ∨
    ∃ a rest, s.pending = .host a :: rest ∧ ¬ a.inside ∧ step s = .fault (.outsideWindow a.window a.offset)

/-- A script whose host accesses stay inside their windows never stops the machine, however many steps it runs (scripts and the
fault are the model's, logs 2 and 6). -/
def Obligations.SafeScriptNeverStops : Prop :=
  ∀ (k : Nat) (s : State), (∀ t ∈ s.pending, t.safe) → ∃ t, Host.Core.run core k s = .next t

/-- R144, R351: a command in flight completes. With only host accesses (inside their windows) pending, one step more than
their number always ends with BUSY = 0; and, where no access is a soft reset (which would abort the command, R342), with
DONE = 1 and LASTOP the opcode byte of the command in flight. Nothing bounds when in between; scripts are the model's
(log 2). -/
def Obligations.CommandEventuallyCompletes : Prop :=
  ∀ s : State, s.status.busy = true → (∀ t ∈ s.pending, t.isHostInside) →
    ∃ t, Host.Core.run core (s.pending.length + 1) s = .next t ∧ t.status.busy = false ∧
      ((∀ a, .host a ∈ s.pending → ¬ a.isSoftReset) →
        t.status.done = true ∧ t.status.lastop = s.cmdl.extractLsb' 0 8 ∧ t.pending = [])

/-- R141: between accept and completion no host access but a soft reset changes an input of the command in flight, and the
command stays in flight. -/
def Obligations.HostCannotChangeSnapshot : Prop :=
  ∀ (s t : State) (a : Access), s.status.busy = true → ¬ a.isSoftReset → hostAccess s a = .next t →
    t.cmdl = s.cmdl ∧ t.argl = s.argl ∧ t.slots = s.slots ∧ t.dmem = s.dmem ∧ t.resets = s.resets ∧ t.res = s.res ∧
      t.status.busy = true

/-- R66, R67: KWPRE and KWRLB, and the latches while BUSY = 0, are never observable: states that differ in nothing else
step alike, to states that differ in nothing else. -/
def Obligations.HiddenStateNeverObserved : Prop :=
  ∀ s t : State, s.hiddenEq t →
    (∃ s' t', step s = .next s' ∧ step t = .next t' ∧ s'.hiddenEq t') ∨
    ∃ f, step s = .fault f ∧ step t = .fault f

/-- R63: no command writes a slot it does not name, and none reads one: changing another slot changes that slot of the
result and nothing else. -/
def Obligations.SlotsAreIndependent : Prop :=
  ∀ (i : Instr) (s : State) (k : Fin Config.nbq) (f : Biquad), namedSlot i ≠ some k.val →
    ∃ t, exec i s = .next t ∧ t.slots[k] = s.slots[k] ∧
      exec i { s with slots := s.slots.set k f } = .next { t with slots := t.slots.set k f }

/-! ### NOP and the biquad commands (40_common.md R153, 41_biquad.md) -/

/-- R153: NOP completes with the STATUS update and nothing else; no other value with opcode 0x00 is a NOP. -/
def Obligations.NopResult : Prop :=
  (∀ s : State, exec .nop s = .next { s with status := s.succeeded }) ∧
  ∀ v : B64, v.extractLsb' 0 8 = 0x00 → (decode v = .ok .nop ↔ v = 0)

/-- R170: BQ_LOAD s divides each coefficient by a0, zeroes the state of slot s and changes nothing else; a slot number of
NBQ or more is ILLCMD. With the example of the rule. -/
def Obligations.BqLoadResult : Prop :=
  (∀ (slot : BitVec 4) (s : State),
    encode (.bqLoad slot) = 0x00000010 ||| slot.setWidth 32 <<< 8 ∧
    (∀ h : slot.toNat < Config.nbq, exec (.bqLoad slot) s = .next { s with
      status := s.succeeded
      slots := s.slots.set slot.toNat
        { b0 := fdiv s.argl[0] s.argl[3], b1 := fdiv s.argl[1] s.argl[3], b2 := fdiv s.argl[2] s.argl[3],
          a1 := fdiv s.argl[4] s.argl[3], a2 := fdiv s.argl[5] s.argl[3], x1 := 0, x2 := 0, y1 := 0, y2 := 0 } h }) ∧
    (Config.nbq ≤ slot.toNat → exec (.bqLoad slot) s = .next { s with status := s.failed 0x01 })) ∧
  fdiv 0x3FF0000000000000 0x4000000000000000 = 0x3FE0000000000000 ∧
  fdiv 0x4000000000000000 0x4000000000000000 = 0x3FF0000000000000 ∧
  fdiv 0x4008000000000000 0x4000000000000000 = 0x3FF8000000000000 ∧ fdiv 0 0x4000000000000000 = 0

/-- R171: the quotients of BQ_LOAD's corner cases. -/
def Obligations.BqLoadCornerQuotients : Prop :=
  (∀ x : B64, finite64 x → val64 x ≠ 0 →
    fdiv x 0 = if x.getLsbD 63 then 0xFFF0000000000000 else 0x7FF0000000000000) ∧
  fdiv 0 0 = 0x7FF8000000000000 ∧ fdiv 0x8000000000000000 0 = 0x7FF8000000000000 ∧
  fdiv 0 0xBFF0000000000000 = 0x8000000000000000 ∧ fdiv 0x3FF0000000000000 0xBFF0000000000000 = 0xBFF0000000000000 ∧
  (∀ x : B64, ¬ nanPattern64 x → fdiv x 0x3FF0000000000000 = x) ∧
  (∀ x y : B64, nanPattern64 x ∨ nanPattern64 y → fdiv x y = 0x7FF8000000000000)

/-- R175: BQ_RESET s zeroes the state of slot s and changes nothing else; a slot number of NBQ or more is ILLCMD. -/
def Obligations.BqResetResult : Prop :=
  ∀ (slot : BitVec 4) (s : State),
    encode (.bqReset slot) = 0x00000011 ||| slot.setWidth 32 <<< 8 ∧
    (∀ h : slot.toNat < Config.nbq, exec (.bqReset slot) s = .next { s with
      status := s.succeeded
      slots := s.slots.set slot.toNat { s.slots[slot.toNat] with x1 := 0, x2 := 0, y1 := 0, y2 := 0 } h }) ∧
    (Config.nbq ≤ slot.toNat → exec (.bqReset slot) s = .next { s with status := s.failed 0x01 })

/-- R169, R178: BQ_STEP s gives RES0 the Direct-Form-I output of its `b64` operand, left to right, one rounding for each
operator, shifts the state of slot s by one simultaneous update, and changes nothing else; a slot number of NBQ or more
is ILLCMD. With the example of R178. -/
def Obligations.BqStepResult : Prop :=
  (∀ (slot : BitVec 4) (s : State),
    encode (.bqStep slot) = 0x00000012 ||| slot.setWidth 32 <<< 8 ∧
    (∀ h : slot.toNat < Config.nbq,
      let f := s.slots[slot.toNat]
      let x := s.argl[0]
      let y := fsub (fsub (fadd (fadd (fmul f.b0 x) (fmul f.b1 f.x1)) (fmul f.b2 f.x2)) (fmul f.a1 f.y1)) (fmul f.a2 f.y2)
      exec (.bqStep slot) s = .next { s with
        status := s.succeeded
        res := s.res.set 0 y
        slots := s.slots.set slot.toNat { f with x1 := x, x2 := f.x1, y1 := y, y2 := f.y1 } h }) ∧
    (Config.nbq ≤ slot.toNat → exec (.bqStep slot) s = .next { s with status := s.failed 0x01 })) ∧
  df1 Biquad.unity 0x3FE0000000000000 =
    (0x3FE0000000000000, { Biquad.unity with x1 := 0x3FE0000000000000, y1 := 0x3FE0000000000000 })

/-- R182, R183, R184: BQ_RUN s, where its checks pass. The stored samples are the outputs of the slot's filter over the
widened inputs, each rounded to `b32`; the slot keeps the unrounded state after all inputs (none for N = 0); every byte
outside the destination and everything else is unchanged. In place (src = dst) is no exception. -/
def Obligations.BqRunResult : Prop :=
  ∀ (slot : BitVec 4) (s : State) (src dst n : Nat) (h : slot.toNat < Config.nbq),
    src = s.argl[0].toNat → dst = s.argl[1].toNat → n = s.argl[2].toNat →
    src % 4 = 0 → dst % 4 = 0 → n = 0 ∨ (src + 4 * n ≤ Config.dmemBytes ∧ dst + 4 * n ≤ Config.dmemBytes) →
    src = dst ∨ n = 0 ∨ src + 4 * n ≤ dst ∨ dst + 4 * n ≤ src →
    let x := fun i => widen (s.loadS (src + 4 * i))
    ∃ t, exec (.bqRun slot) s = .next t ∧
      t = { s with
        status := s.succeeded
        slots := s.slots.set slot.toNat (biquadAfter s.slots[slot.toNat] x n) h
        dmem := t.dmem } ∧
      (∀ i, i < n → t.loadS (dst + 4 * i) = round32 (biquadOutput s.slots[slot.toNat] x i)) ∧
      ∀ a, a < dst ∨ dst + 4 * n ≤ a → t.byteAt a = s.byteAt a

/-- R146 to R149, R182, R304: where BQ_RUN fails, and with which code: the first failing check in the order ILLCMD, ALIGN,
RANGE, OVERLAP. Nothing but STATUS changes. -/
def Obligations.BqRunErrors : Prop :=
  ∀ (slot : BitVec 4) (s : State) (src dst n : Nat),
    src = s.argl[0].toNat → dst = s.argl[1].toNat → n = s.argl[2].toNat →
    if Config.nbq ≤ slot.toNat then exec (.bqRun slot) s = .next { s with status := s.failed 0x01 }
    else if src % 4 ≠ 0 ∨ dst % 4 ≠ 0 then exec (.bqRun slot) s = .next { s with status := s.failed 0x03 }
    else if n ≠ 0 ∧ (Config.dmemBytes < src + 4 * n ∨ Config.dmemBytes < dst + 4 * n) then
      exec (.bqRun slot) s = .next { s with status := s.failed 0x04 }
    else if n ≠ 0 ∧ src < dst + 4 * n ∧ dst < src + 4 * n ∧ src ≠ dst then
      exec (.bqRun slot) s = .next { s with status := s.failed 0x05 }
    else ∃ t, exec (.bqRun slot) s = .next t ∧ t.status = s.succeeded

/-- R185, the bit-equality law: BQ_RUN leaves the slots, and stores the rounded outputs, that the sequence of BQ_STEP
commands on the widened inputs gives from the same state. -/
def Obligations.BqRunEqualsSteps : Prop :=
  ∀ (slot : BitVec 4) (s t : State) (src dst n : Nat),
    src = s.argl[0].toNat → dst = s.argl[1].toNat → n = s.argl[2].toNat →
    exec (.bqRun slot) s = .next t → t.status.errcode = 0x00 →
    let x := fun i => widen (s.loadS (src + 4 * i))
    (∃ u, stepMany slot x s n = some u ∧ t.slots = u.slots) ∧
    ∀ i, i < n → ∃ v, stepMany slot x s (i + 1) = some v ∧ t.loadS (dst + 4 * i) = round32 v.res[0]

/-- R184, R356: two runs equal one. BQ_RUN on N1 samples and then on the N2 samples that follow them leaves the slots and
the memory that one BQ_RUN on the N1 + N2 samples leaves. -/
def Obligations.BqRunsConcatenate : Prop :=
  ∀ (slot : BitVec 4) (s t : State) (src dst n1 n2 : Nat) (rest : Vector B64 8),
    src < 2 ^ 64 → dst < 2 ^ 64 → n1 + n2 < 2 ^ 64 → src + 4 * n1 < 2 ^ 64 → dst + 4 * n1 < 2 ^ 64 →
    let at3 := fun (a b c : Nat) =>
      ((rest.set 0 (BitVec.ofNat 64 a)).set 1 (BitVec.ofNat 64 b)).set 2 (BitVec.ofNat 64 c)
    exec (.bqRun slot) { s with argl := at3 src dst (n1 + n2) } = .next t → t.status.errcode = 0x00 →
    ∃ u v, exec (.bqRun slot) { s with argl := at3 src dst n1 } = .next u ∧
      exec (.bqRun slot) { u with argl := at3 (src + 4 * n1) (dst + 4 * n1) n2 } = .next v ∧
      v.status = t.status ∧ v.slots = t.slots ∧ v.dmem = t.dmem

/-- R186: a slot with the unity coefficients and a finite state returns y == x for every finite input, and keeps unity
coefficients and a finite state. -/
def Obligations.UnityBiquadIsIdentity : Prop :=
  ∀ (slot : BitVec 4) (s : State) (h : slot.toNat < Config.nbq),
    let f := s.slots[slot.toNat]
    f = { Biquad.unity with x1 := f.x1, x2 := f.x2, y1 := f.y1, y2 := f.y2 } →
    finite64 f.x1 → finite64 f.x2 → finite64 f.y1 → finite64 f.y2 → finite64 s.argl[0] →
    ∃ t, exec (.bqStep slot) s = .next t ∧ feq t.res[0] s.argl[0] = true ∧
      let g := t.slots[slot.toNat]
      g = { Biquad.unity with x1 := g.x1, x2 := g.x2, y1 := g.y1, y2 := g.y2 } ∧
      finite64 g.x1 ∧ finite64 g.x2 ∧ finite64 g.y1 ∧ finite64 g.y2

/-! ### KW_APPLY (42_kweighting.md) -/

/-- R203, R204, R205: KW_APPLY, where its checks pass. The stored samples are `rlb(pre(x))`, each pass a fresh filter with
the ROM coefficients of the rate and its output rounded to `b32`; no slot, no RES register and no byte outside the
destination changes. -/
def Obligations.KwApplyResult : Prop :=
  ∀ (s : State) (src dst n : Nat) (r : KwRate),
    src = s.argl[0].toNat → dst = s.argl[1].toNat → n = s.argl[2].toNat →
    s.argl[3].toNat = (match r with | .hz48000 => 48000 | .hz44100 => 44100) →
    src % 4 = 0 → dst % 4 = 0 → n = 0 ∨ (src + 4 * n ≤ Config.dmemBytes ∧ dst + 4 * n ≤ Config.dmemBytes) →
    src = dst ∨ n = 0 ∨ src + 4 * n ≤ dst ∨ dst + 4 * n ≤ src →
    ∃ t, exec .kwApply s = .next t ∧
      t = { s with status := s.succeeded, dmem := t.dmem, kwpre := t.kwpre, kwrlb := t.kwrlb } ∧
      (∀ i, i < n → t.loadS (dst + 4 * i) = kwOut r (fun j => s.loadS (src + 4 * j)) i) ∧
      ∀ a, a < dst ∨ dst + 4 * n ≤ a → t.byteAt a = s.byteAt a

/-- R146 to R149, R151, R204, R206: where KW_APPLY fails, and with which code: RATE, then ALIGN, RANGE, OVERLAP. -/
def Obligations.KwApplyErrors : Prop :=
  ∀ (s : State) (src dst n rate : Nat),
    src = s.argl[0].toNat → dst = s.argl[1].toNat → n = s.argl[2].toNat → rate = s.argl[3].toNat →
    if rate ≠ 44100 ∧ rate ≠ 48000 then exec .kwApply s = .next { s with status := s.failed 0x02 }
    else if src % 4 ≠ 0 ∨ dst % 4 ≠ 0 then exec .kwApply s = .next { s with status := s.failed 0x03 }
    else if n ≠ 0 ∧ (Config.dmemBytes < src + 4 * n ∨ Config.dmemBytes < dst + 4 * n) then
      exec .kwApply s = .next { s with status := s.failed 0x04 }
    else if n ≠ 0 ∧ src < dst + 4 * n ∧ dst < src + 4 * n ∧ src ≠ dst then
      exec .kwApply s = .next { s with status := s.failed 0x05 }
    else ∃ t, exec .kwApply s = .next t ∧ t.status = s.succeeded

/-- R205: a NaN input sample makes every later output of the channel the canonical NaN, and its own output too. -/
def Obligations.KwNaNSpreads : Prop :=
  ∀ (s t : State) (src dst n j : Nat),
    src = s.argl[0].toNat → dst = s.argl[1].toNat → n = s.argl[2].toNat →
    exec .kwApply s = .next t → t.status.errcode = 0x00 → j < n → nanPattern32 (s.loadS (src + 4 * j)) →
    ∀ i, j ≤ i → i < n → t.loadS (dst + 4 * i) = 0x7FC00000

/-! ### LUFS_MEASURE (43_lufs.md) -/

/-- R221: LUFS_MEASURE with no channels succeeds on any operands: −∞, and RES1..RES5 zero. -/
def Obligations.LufsOfNoChannels : Prop :=
  ∀ s : State, ∃ t, exec (.lufsMeasure 0) s = .next t ∧ t = { s with status := s.succeeded, res := t.res } ∧
    t.res[0] = 0xFFF0000000000000 ∧ t.res[1] = 0 ∧ t.res[2] = 0 ∧ t.res[3] = 0 ∧ t.res[4] = 0 ∧ t.res[5] = 0 ∧
    t.res[6] = s.res[6] ∧ t.res[7] = s.res[7]

/-- R220, R222 to R226, R228 to R231, R234: LUFS_MEASURE, where its checks pass. The block powers are stored at bp, RES0
to RES5 are the loudness, G, NBLK, NABS, NREL and M1 of the dual gate; no slot, no other RES register and no byte outside
the block powers changes. Block `j` exists exactly when it ends within the N samples. -/
def Obligations.LufsResult : Prop :=
  ∀ (nch : BitVec 4) (s : State) (base stride n bp nblk : Nat) (r : KwRate),
    nch ≠ 0 → nch.toNat ≤ Config.chMax →
    base = s.argl[0].toNat → stride = s.argl[1].toNat → n = s.argl[2].toNat → bp = s.argl[4].toNat →
    s.argl[3].toNat = (match r with | .hz48000 => 48000 | .hz44100 => 44100) →
    (∀ j, j < nblk ↔ j * hopH r + lengthB r ≤ n) →
    base % 4 = 0 → stride % 4 = 0 → bp % 8 = 0 →
    (∀ c, c < nch.toNat → n = 0 ∨ base + c * stride + 4 * n ≤ Config.dmemBytes) →
    nblk = 0 ∨ bp + 8 * nblk ≤ Config.dmemBytes →
    (∀ c, c < nch.toNat → n = 0 ∨ nblk = 0 ∨ bp + 8 * nblk ≤ base + c * stride ∨ base + c * stride + 4 * n ≤ bp) →
    let p := powerOf r nch.toNat fun c => kwOut r fun i => s.loadS (base + c * stride + 4 * i)
    let as := survivorsAbs p nblk
    let rs := survivorsRel p as
    let g := meanOf p rs
    ∃ t, exec (.lufsMeasure nch) s = .next t ∧
      t = { s with status := s.succeeded, res := t.res, dmem := t.dmem, kwpre := t.kwpre, kwrlb := t.kwrlb } ∧
      t.res[0] = (if feq g 0 then 0xFFF0000000000000
        else fadd 0xBFE61CAC083126E9 (fmul 0x4024000000000000 (fLog10 g))) ∧
      t.res[1] = g ∧ t.res[2] = BitVec.ofNat 64 nblk ∧ t.res[3] = BitVec.ofNat 64 as.length ∧
      t.res[4] = BitVec.ofNat 64 rs.length ∧ t.res[5] = meanOf p as ∧ t.res[6] = s.res[6] ∧ t.res[7] = s.res[7] ∧
      (∀ j, j < nblk → t.memRead (bp + 8 * j) 8 = (p j).toNat) ∧
      ∀ a, a < bp ∨ bp + 8 * nblk ≤ a → t.byteAt a = s.byteAt a

/-- R146 to R149, R151, R220, R304: where LUFS_MEASURE fails, and with which code: ILLCMD, then (with at least one channel)
RATE, ALIGN, RANGE, OVERLAP. -/
def Obligations.LufsErrors : Prop :=
  ∀ (nch : BitVec 4) (s : State) (base stride n rate bp nblk : Nat),
    base = s.argl[0].toNat → stride = s.argl[1].toNat → n = s.argl[2].toNat → rate = s.argl[3].toNat →
    bp = s.argl[4].toNat →
    nblk = (if rate = 48000 then (if 19200 ≤ n then (n - 19200) / 4800 + 1 else 0)
      else if 17640 ≤ n then (n - 17640) / 4410 + 1 else 0) →
    if Config.chMax < nch.toNat then exec (.lufsMeasure nch) s = .next { s with status := s.failed 0x01 }
    else if nch = 0 then ∃ t, exec (.lufsMeasure nch) s = .next t ∧ t.status = s.succeeded
    else if rate ≠ 44100 ∧ rate ≠ 48000 then exec (.lufsMeasure nch) s = .next { s with status := s.failed 0x02 }
    else if base % 4 ≠ 0 ∨ stride % 4 ≠ 0 ∨ bp % 8 ≠ 0 then
      exec (.lufsMeasure nch) s = .next { s with status := s.failed 0x03 }
    else if (∃ c, c < nch.toNat ∧ n ≠ 0 ∧ Config.dmemBytes < base + c * stride + 4 * n) ∨
        (nblk ≠ 0 ∧ Config.dmemBytes < bp + 8 * nblk) then
      exec (.lufsMeasure nch) s = .next { s with status := s.failed 0x04 }
    else if ∃ c, c < nch.toNat ∧ n ≠ 0 ∧ nblk ≠ 0 ∧ bp < base + c * stride + 4 * n ∧ base + c * stride < bp + 8 * nblk then
      exec (.lufsMeasure nch) s = .next { s with status := s.failed 0x05 }
    else ∃ t, exec (.lufsMeasure nch) s = .next t ∧ t.status = s.succeeded

/-- R235: a measurement shorter than one block stores nothing; one whose samples are all zeros, +0.0 or −0.0, stores +0.0
for every block; and those, and every measurement with no block power above T_ABS, succeed with −∞: G, NABS, NREL and M1
are zero. NBLK is counted in each case. -/
def Obligations.LufsOfSilence : Prop :=
  ∀ (nch : BitVec 4) (s t : State) (base stride n bp nblk : Nat) (r : KwRate),
    base = s.argl[0].toNat → stride = s.argl[1].toNat → n = s.argl[2].toNat → bp = s.argl[4].toNat → nch ≠ 0 →
    s.argl[3].toNat = (match r with | .hz48000 => 48000 | .hz44100 => 44100) →
    (∀ j, j < nblk ↔ j * hopH r + lengthB r ≤ n) →
    exec (.lufsMeasure nch) s = .next t → t.status.errcode = 0x00 →
    let short := n < lengthB r
    let zeros := ∀ c i, c < nch.toNat → i < n →
      s.loadS (base + c * stride + 4 * i) = 0 ∨ s.loadS (base + c * stride + 4 * i) = 0x80000000
    let quiet := ∀ j, j < nblk → fle (BitVec.ofNat 64 (t.memRead (bp + 8 * j) 8)) 0x3E7F791EC6E1D5B7 = true
    t.res[2] = BitVec.ofNat 64 nblk ∧
    (short → t.dmem = s.dmem ∧ t.res[2] = 0) ∧
    (zeros → ∀ j, j < nblk → t.memRead (bp + 8 * j) 8 = 0) ∧
    (short ∨ zeros ∨ quiet →
      t.res[0] = 0xFFF0000000000000 ∧ t.res[1] = 0 ∧ t.res[3] = 0 ∧ t.res[4] = 0 ∧ t.res[5] = 0)

/-- R237: the block powers of a one-channel measurement are the mean squares of the samples that KW_APPLY stores for the
same channel and rate. -/
def Obligations.LufsPowerMatchesKwApply : Prop :=
  ∀ (s t u : State) (dst n bp : Nat) (r : KwRate) (largs : Vector B64 8),
    dst = s.argl[1].toNat → n = s.argl[2].toNat → bp = largs[4].toNat →
    s.argl[3].toNat = (match r with | .hz48000 => 48000 | .hz44100 => 44100) →
    largs[0] = s.argl[0] → largs[2] = s.argl[2] → largs[3] = s.argl[3] →
    exec .kwApply s = .next t → t.status.errcode = 0x00 →
    exec (.lufsMeasure 1) { s with argl := largs } = .next u → u.status.errcode = 0x00 →
    ∀ j, j * hopH r + lengthB r ≤ n → u.memRead (bp + 8 * j) 8 =
      (meanSquareFrom r (j * hopH r) fun i => t.loadS (dst + 4 * i)).toNat

/-- R236, the duplicate-channel law: each stereo block power of two equal channels is exactly twice the mono one, and where
every power passes both gates on both sides, and the doubled mean is finite, the gated mean square doubles exactly. First
of block powers and gates, then of LUFS_MEASURE 1 and LUFS_MEASURE 2 with stride 0 from one state. -/
def Obligations.DuplicateChannelDoubles : Prop :=
  (∀ (r : KwRate) (k : List B32) (j : Nat),
    blockPower r [k, k] j = fadd (blockPower r [k] j) (blockPower r [k] j)) ∧
  (∀ ps : List B64, ps ≠ [] → ps.length ≤ 2 ^ 53 → (∀ p ∈ ps, finite64 p) →
    (gate ps).nrel = ps.length → (gate (ps.map fun p => fadd p p)).nrel = ps.length →
    finite64 (gate (ps.map fun p => fadd p p)).g →
    (gate (ps.map fun p => fadd p p)).g = fadd (gate ps).g (gate ps).g) ∧
  ∀ (s t u : State) (bp nblk : Nat), bp = s.argl[4].toNat → s.argl[1] = 0 →
    exec (.lufsMeasure 1) s = .next t → t.status.errcode = 0x00 →
    exec (.lufsMeasure 2) s = .next u → u.status.errcode = 0x00 → t.res[2] = BitVec.ofNat 64 nblk → nblk < 2 ^ 53 →
    let mono := fun (j : Nat) => BitVec.ofNat 64 (t.memRead (bp + 8 * j) 8)
    u.res[2] = t.res[2] ∧
    (∀ j, j < nblk → BitVec.ofNat 64 (u.memRead (bp + 8 * j) 8) = fadd (mono j) (mono j)) ∧
    ((∀ j, j < nblk → finite64 (mono j)) → t.res[4] = t.res[2] → u.res[4] = u.res[2] → finite64 u.res[1] →
      u.res[1] = fadd t.res[1] t.res[1])

/-! ### TP_MEASURE (44_truepeak.md) -/

/-- R260, R276, R277, R278, R280: TP_MEASURE, where its checks pass. RES0 is the maximum over the channels of the
document's loop, which reads only the N samples of each; nothing else changes. -/
def Obligations.TpResult : Prop :=
  ∀ (nch : BitVec 4) (s : State) (base stride n : Nat), nch ≠ 0 → nch.toNat ≤ Config.chMax →
    base = s.argl[0].toNat → stride = s.argl[1].toNat → n = s.argl[2].toNat →
    base % 4 = 0 → stride % 4 = 0 →
    (∀ c, c < nch.toNat → n = 0 ∨ base + c * stride + 4 * n ≤ Config.dmemBytes) →
    exec (.tpMeasure nch) s = .next { s with
      status := s.succeeded
      res := s.res.set 0 ((List.range nch.toNat).foldl
        (fun p c => fmax p (peakOf (fun i => widen (s.loadS (base + c * stride + 4 * i))) n)) 0) }

/-- R261: TP_MEASURE with no channels succeeds on any operands with RES0 = +0.0. -/
def Obligations.TpOfNoChannels : Prop :=
  ∀ s : State, exec (.tpMeasure 0) s = .next { s with status := s.succeeded, res := s.res.set 0 0 }

/-- R262: TP_MEASURE behaves alike whatever the rate operand, and never raises RATE. -/
def Obligations.TpIgnoresRate : Prop :=
  ∀ (nch : BitVec 4) (s : State) (v : B64), ∃ t, exec (.tpMeasure nch) s = .next t ∧ t.status.errcode ≠ 0x02 ∧
    exec (.tpMeasure nch) { s with argl := s.argl.set 3 v } = .next { t with argl := s.argl.set 3 v }

/-- R146 to R148, R260, R304: where TP_MEASURE fails, and with which code: ILLCMD, then (with at least one channel) ALIGN,
RANGE. -/
def Obligations.TpErrors : Prop :=
  ∀ (nch : BitVec 4) (s : State) (base stride n : Nat),
    base = s.argl[0].toNat → stride = s.argl[1].toNat → n = s.argl[2].toNat →
    if Config.chMax < nch.toNat then exec (.tpMeasure nch) s = .next { s with status := s.failed 0x01 }
    else if nch = 0 then ∃ t, exec (.tpMeasure nch) s = .next t ∧ t.status = s.succeeded
    else if base % 4 ≠ 0 ∨ stride % 4 ≠ 0 then exec (.tpMeasure nch) s = .next { s with status := s.failed 0x03 }
    else if ∃ c, c < nch.toNat ∧ n ≠ 0 ∧ Config.dmemBytes < base + c * stride + 4 * n then
      exec (.tpMeasure nch) s = .next { s with status := s.failed 0x04 }
    else ∃ t, exec (.tpMeasure nch) s = .next t ∧ t.status = s.succeeded

/-- R282, R283: after a measurement, RES0 is at least the magnitude of every sample of every channel unless it is NaN, and a
NaN sample anywhere makes it the canonical NaN. -/
def Obligations.TpBoundsEverySample : Prop :=
  ∀ (nch : BitVec 4) (s t : State) (c i : Nat), exec (.tpMeasure nch) s = .next t → t.status.errcode = 0x00 →
    c < nch.toNat → i < s.argl[2].toNat →
    let x := s.loadS (s.argl[0].toNat + c * s.argl[1].toNat + 4 * i)
    (nanPattern32 x → t.res[0] = 0x7FF8000000000000) ∧
    (¬ nanPattern64 t.res[0] → fle (fabs (widen x)) t.res[0] = true)

/-- R285 and the last case of R283: the order of the channels does not matter, a repeated channel does not matter, a
measurement of many channels is the maximum of their own, and with stride 0 the channel count does not matter. -/
def Obligations.TpChannelLaws : Prop :=
  (∀ cs ds : List (List B64), cs.Perm ds → truePeak cs = truePeak ds) ∧
  (∀ c : List B64, truePeak [c, c] = truePeak [c]) ∧
  (∀ cs : List (List B64), truePeak cs = cs.foldl (fun p c => fmax p (truePeak [c])) 0) ∧
  ∀ (nch : BitVec 4) (s : State), nch ≠ 0 → nch.toNat ≤ Config.chMax → s.argl[1] = 0 →
    exec (.tpMeasure nch) s = exec (.tpMeasure 1) s

/-- R286: negating every sample of a channel leaves its peak unchanged. -/
def Obligations.TpSignSymmetry : Prop :=
  ∀ xs : List B32, channelPeak (xs.map fun v => widen (v ^^^ 0x80000000)) = channelPeak (xs.map widen)

/-! ### Arithmetic (00_scope.md section 6) -/

/-- R19: `a + b` and `a − b` of finite data are the exact sum and difference rounded to nearest even; an exact zero is +0.0
unless both terms are −0.0. A sum with an infinite term is that infinity, and of two infinities of opposite sign the
canonical NaN. The sign of an exact zero, the threshold 2^1024 − 2^970 and the infinite terms are IEEE 754's (PRESUMED,
log 10). -/
def Obligations.SumsAreCorrectlyRounded : Prop :=
  (∀ a b : B64, finite64 a → finite64 b →
    roundsTo64 (val64 a + val64 b) (fadd a b) ∧ roundsTo64 (val64 a - val64 b) (fsub a b) ∧
    (val64 a + val64 b = 0 → fadd a b = if a.getLsbD 63 && b.getLsbD 63 then 0x8000000000000000 else 0) ∧
    (val64 a - val64 b = 0 → fsub a b = if a.getLsbD 63 && !b.getLsbD 63 then 0x8000000000000000 else 0)) ∧
  (∀ (a : B64) (m : Bool), finite64 a →
    fadd a (inf64 m) = inf64 m ∧ fadd (inf64 m) a = inf64 m ∧ fsub a (inf64 m) = inf64 (!m) ∧
    fsub (inf64 m) a = inf64 m) ∧
  ∀ m n : Bool, fadd (inf64 m) (inf64 n) = (if m = n then inf64 m else 0x7FF8000000000000) ∧
    fsub (inf64 m) (inf64 n) = if m = n then 0x7FF8000000000000 else inf64 m

/-- R19: `a × b` and `a / b` (b not zero) of finite data are the exact product and quotient rounded to nearest even, with
the sign of the operands' signs, also when the result is zero. A finite non-zero dividend over zero is infinity, 0/0 is the
canonical NaN. With an infinity: zero times it and infinity over infinity are the canonical NaN, every other product and
infinity over finite is infinity, finite over it is zero, all with the sign of the operands' signs. The signs, the
threshold 2^1024 − 2^970 and the infinite operands are IEEE 754's (PRESUMED, log 10). -/
def Obligations.ProductsAreCorrectlyRounded : Prop :=
  (∀ a b : B64, finite64 a → finite64 b →
    roundsTo64 (val64 a * val64 b) (fmul a b) ∧ (fmul a b).getLsbD 63 = (a.getLsbD 63 != b.getLsbD 63) ∧
    (val64 b ≠ 0 → roundsTo64 (val64 a / val64 b) (fdiv a b) ∧
      (fdiv a b).getLsbD 63 = (a.getLsbD 63 != b.getLsbD 63)) ∧
    (val64 b = 0 → fdiv a b =
      if val64 a = 0 then 0x7FF8000000000000 else inf64 (a.getLsbD 63 != b.getLsbD 63))) ∧
  (∀ (a : B64) (m : Bool), finite64 a →
    let sign := a.getLsbD 63 != m
    fmul a (inf64 m) = (if val64 a = 0 then 0x7FF8000000000000 else inf64 sign) ∧
    fmul (inf64 m) a = (if val64 a = 0 then 0x7FF8000000000000 else inf64 sign) ∧
    fdiv a (inf64 m) = (if sign then 0x8000000000000000 else 0) ∧ fdiv (inf64 m) a = inf64 sign) ∧
  ∀ m n : Bool, fmul (inf64 m) (inf64 n) = inf64 (m != n) ∧ fdiv (inf64 m) (inf64 n) = 0x7FF8000000000000

/-- R22, R23: `widen` is exact, and `round32` rounds to nearest even; both keep signs and infinities and give the canonical
NaN for a NaN. R154: a count below 2^53 is converted to `b64` exactly. -/
def Obligations.ConversionsAreCorrectlyRounded : Prop :=
  (∀ v : B32, finite32 v → finite64 (widen v) ∧ val64 (widen v) = val32 v ∧ (widen v).getLsbD 63 = v.getLsbD 31) ∧
  widen 0x7F800000 = 0x7FF0000000000000 ∧ widen 0xFF800000 = 0xFFF0000000000000 ∧
  (∀ v : B32, nanPattern32 v → widen v = 0x7FF8000000000000) ∧
  (∀ v : B64, finite64 v → roundsTo32 (val64 v) (round32 v) ∧ (round32 v).getLsbD 31 = v.getLsbD 63) ∧
  round32 0x7FF0000000000000 = 0x7F800000 ∧ round32 0xFFF0000000000000 = 0xFF800000 ∧
  (∀ v : B64, nanPattern64 v → round32 v = 0x7FC00000) ∧
  ∀ n : Nat, n < 2 ^ 53 → finite64 (natToB64 n) ∧ val64 (natToB64 n) = n

/-- R21, R24, R25, R26: every NaN an operation returns is canonical; `abs` clears bit 63; `max` propagates NaN and else
returns the operand that is at least the other; comparisons are false with a NaN and follow the values otherwise,
with the infinities below and above every finite value. -/
def Obligations.NaNsAndComparisons : Prop :=
  (∀ a b r : B64, r ∈ [fadd a b, fsub a b, fmul a b, fdiv a b, fmax a b, fabs a] → nanPattern64 r →
    r = 0x7FF8000000000000) ∧
  (∀ a b : B64, nanPattern64 a ∨ nanPattern64 b →
    fadd a b = 0x7FF8000000000000 ∧ fsub a b = 0x7FF8000000000000 ∧ fmul a b = 0x7FF8000000000000 ∧
    fdiv a b = 0x7FF8000000000000 ∧ fmax a b = 0x7FF8000000000000 ∧
    flt a b = false ∧ fle a b = false ∧ fgt a b = false ∧ fge a b = false ∧ feq a b = false) ∧
  (∀ a : B64, fabs a = if a.extractLsb' 52 11 = 0x7FF ∧ a.extractLsb' 0 52 ≠ 0 then 0x7FF8000000000000
    else a &&& 0x7FFFFFFFFFFFFFFF) ∧
  (∀ a b : B64, ¬ nanPattern64 a → ¬ nanPattern64 b → fmax a b = if fge a b then a else b) ∧
  (∀ a b : B64, finite64 a → finite64 b →
    (flt a b = true ↔ val64 a < val64 b) ∧ (fle a b = true ↔ val64 a ≤ val64 b) ∧
    (fgt a b = true ↔ val64 b < val64 a) ∧ (fge a b = true ↔ val64 b ≤ val64 a) ∧
    (feq a b = true ↔ val64 a = val64 b)) ∧
  (∀ (a : B64) (m : Bool), finite64 a →
    flt a (inf64 m) = !m ∧ fle a (inf64 m) = !m ∧ fgt a (inf64 m) = m ∧ fge a (inf64 m) = m ∧ feq a (inf64 m) = false ∧
    flt (inf64 m) a = m ∧ fle (inf64 m) a = m ∧ fgt (inf64 m) a = !m ∧ fge (inf64 m) a = !m ∧
    feq (inf64 m) a = false) ∧
  ∀ m n : Bool, flt (inf64 m) (inf64 n) = (m && !n) ∧ fle (inf64 m) (inf64 n) = (m || !n) ∧
    fgt (inf64 m) (inf64 n) = (!m && n) ∧ fge (inf64 m) (inf64 n) = (!m || n) ∧ feq (inf64 m) (inf64 n) = (m == n)

/-- R27: `F_log10`, whatever the implementation's own logarithm is: the special values, exact powers of ten exactly, and
every other positive finite number within 1 ulp of the true logarithm (1 ulp of the real `y` is `2^(⌊log2 |y|⌋ − 52)`, the model's reading of
"ulp", log 4). -/
def Obligations.LogarithmMeetsItsBounds : Prop :=
  fLog10 0 = 0xFFF0000000000000 ∧ fLog10 0x8000000000000000 = 0xFFF0000000000000 ∧
  fLog10 0x7FF0000000000000 = 0x7FF0000000000000 ∧
  (∀ x : B64, nanPattern64 x ∨ flt x 0 = true → fLog10 x = 0x7FF8000000000000) ∧
  (∀ (x : B64) (k : ℤ), finite64 x → val64 x = (10 : ℚ) ^ k → finite64 (fLog10 x) ∧ val64 (fLog10 x) = (k : ℚ)) ∧
  ∀ x : B64, finite64 x → 0 < val64 x → finite64 (fLog10 x) ∧
    |((val64 (fLog10 x) : ℚ) : ℝ) - Real.logb 10 ((val64 x : ℚ) : ℝ)| ≤
      (2 : ℝ) ^ (⌊Real.logb 2 |Real.logb 10 ((val64 x : ℚ) : ℝ)|⌋ - 52)
end

