-- ==== Sys2Proof/Laws/State.lean ====
section
/-!
SUPPORT. One lemma per field per update of the state, each true by `rfl`, so that no proof unfolds a record update.
-/

namespace Sys2Proof.Machine

@[simp] theorem State.setRes_ie (s : State) (i : Fin 8) (v : B64) : (s.setRes i v).ie = s.ie := rfl
@[simp] theorem State.setRes_status (s : State) (i : Fin 8) (v : B64) : (s.setRes i v).status = s.status := rfl
@[simp] theorem State.setRes_arg (s : State) (i : Fin 8) (v : B64) : (s.setRes i v).arg = s.arg := rfl
@[simp] theorem State.setRes_res (s : State) (i : Fin 8) (v : B64) : (s.setRes i v).res = s.res.set i v := rfl
@[simp] theorem State.setRes_slots (s : State) (i : Fin 8) (v : B64) : (s.setRes i v).slots = s.slots := rfl
@[simp] theorem State.setRes_kwpre (s : State) (i : Fin 8) (v : B64) : (s.setRes i v).kwpre = s.kwpre := rfl
@[simp] theorem State.setRes_kwrlb (s : State) (i : Fin 8) (v : B64) : (s.setRes i v).kwrlb = s.kwrlb := rfl
@[simp] theorem State.setRes_cmdl (s : State) (i : Fin 8) (v : B64) : (s.setRes i v).cmdl = s.cmdl := rfl
@[simp] theorem State.setRes_argl (s : State) (i : Fin 8) (v : B64) : (s.setRes i v).argl = s.argl := rfl
@[simp] theorem State.setRes_dmem (s : State) (i : Fin 8) (v : B64) : (s.setRes i v).dmem = s.dmem := rfl
@[simp] theorem State.setRes_resets (s : State) (i : Fin 8) (v : B64) : (s.setRes i v).resets = s.resets := rfl
@[simp] theorem State.setRes_pending (s : State) (i : Fin 8) (v : B64) : (s.setRes i v).pending = s.pending := rfl
@[simp] theorem State.setRes_readData (s : State) (i : Fin 8) (v : B64) : (s.setRes i v).readData = s.readData := rfl

@[simp] theorem State.setSlot_ie (s : State) (k : Fin Config.nbq) (f : Biquad) : (s.setSlot k f).ie = s.ie := rfl
@[simp] theorem State.setSlot_status (s : State) (k : Fin Config.nbq) (f : Biquad) : (s.setSlot k f).status = s.status := rfl
@[simp] theorem State.setSlot_arg (s : State) (k : Fin Config.nbq) (f : Biquad) : (s.setSlot k f).arg = s.arg := rfl
@[simp] theorem State.setSlot_res (s : State) (k : Fin Config.nbq) (f : Biquad) : (s.setSlot k f).res = s.res := rfl
@[simp] theorem State.setSlot_slots (s : State) (k : Fin Config.nbq) (f : Biquad) : (s.setSlot k f).slots = s.slots.set k f := rfl
@[simp] theorem State.setSlot_kwpre (s : State) (k : Fin Config.nbq) (f : Biquad) : (s.setSlot k f).kwpre = s.kwpre := rfl
@[simp] theorem State.setSlot_kwrlb (s : State) (k : Fin Config.nbq) (f : Biquad) : (s.setSlot k f).kwrlb = s.kwrlb := rfl
@[simp] theorem State.setSlot_cmdl (s : State) (k : Fin Config.nbq) (f : Biquad) : (s.setSlot k f).cmdl = s.cmdl := rfl
@[simp] theorem State.setSlot_argl (s : State) (k : Fin Config.nbq) (f : Biquad) : (s.setSlot k f).argl = s.argl := rfl
@[simp] theorem State.setSlot_dmem (s : State) (k : Fin Config.nbq) (f : Biquad) : (s.setSlot k f).dmem = s.dmem := rfl
@[simp] theorem State.setSlot_resets (s : State) (k : Fin Config.nbq) (f : Biquad) : (s.setSlot k f).resets = s.resets := rfl
@[simp] theorem State.setSlot_pending (s : State) (k : Fin Config.nbq) (f : Biquad) : (s.setSlot k f).pending = s.pending := rfl
@[simp] theorem State.setSlot_readData (s : State) (k : Fin Config.nbq) (f : Biquad) : (s.setSlot k f).readData = s.readData := rfl

@[simp] theorem State.setKwFilters_ie (s : State) (r : KwRate) (xs : List B32) : (s.setKwFilters r xs).ie = s.ie := rfl
@[simp] theorem State.setKwFilters_status (s : State) (r : KwRate) (xs : List B32) : (s.setKwFilters r xs).status = s.status := rfl
@[simp] theorem State.setKwFilters_arg (s : State) (r : KwRate) (xs : List B32) : (s.setKwFilters r xs).arg = s.arg := rfl
@[simp] theorem State.setKwFilters_res (s : State) (r : KwRate) (xs : List B32) : (s.setKwFilters r xs).res = s.res := rfl
@[simp] theorem State.setKwFilters_slots (s : State) (r : KwRate) (xs : List B32) : (s.setKwFilters r xs).slots = s.slots := rfl
@[simp] theorem State.setKwFilters_kwpre (s : State) (r : KwRate) (xs : List B32) : (s.setKwFilters r xs).kwpre = (kwPrePass r xs).2 := rfl
@[simp] theorem State.setKwFilters_kwrlb (s : State) (r : KwRate) (xs : List B32) : (s.setKwFilters r xs).kwrlb = (kwRlbPass r xs).2 := rfl
@[simp] theorem State.setKwFilters_cmdl (s : State) (r : KwRate) (xs : List B32) : (s.setKwFilters r xs).cmdl = s.cmdl := rfl
@[simp] theorem State.setKwFilters_argl (s : State) (r : KwRate) (xs : List B32) : (s.setKwFilters r xs).argl = s.argl := rfl
@[simp] theorem State.setKwFilters_dmem (s : State) (r : KwRate) (xs : List B32) : (s.setKwFilters r xs).dmem = s.dmem := rfl
@[simp] theorem State.setKwFilters_resets (s : State) (r : KwRate) (xs : List B32) : (s.setKwFilters r xs).resets = s.resets := rfl
@[simp] theorem State.setKwFilters_pending (s : State) (r : KwRate) (xs : List B32) : (s.setKwFilters r xs).pending = s.pending := rfl
@[simp] theorem State.setKwFilters_readData (s : State) (r : KwRate) (xs : List B32) : (s.setKwFilters r xs).readData = s.readData := rfl

@[simp] theorem State.memWrite_ie (s : State) (a n v : Nat) : (s.memWrite a n v).ie = s.ie := rfl
@[simp] theorem State.memWrite_status (s : State) (a n v : Nat) : (s.memWrite a n v).status = s.status := rfl
@[simp] theorem State.memWrite_arg (s : State) (a n v : Nat) : (s.memWrite a n v).arg = s.arg := rfl
@[simp] theorem State.memWrite_res (s : State) (a n v : Nat) : (s.memWrite a n v).res = s.res := rfl
@[simp] theorem State.memWrite_slots (s : State) (a n v : Nat) : (s.memWrite a n v).slots = s.slots := rfl
@[simp] theorem State.memWrite_kwpre (s : State) (a n v : Nat) : (s.memWrite a n v).kwpre = s.kwpre := rfl
@[simp] theorem State.memWrite_kwrlb (s : State) (a n v : Nat) : (s.memWrite a n v).kwrlb = s.kwrlb := rfl
@[simp] theorem State.memWrite_cmdl (s : State) (a n v : Nat) : (s.memWrite a n v).cmdl = s.cmdl := rfl
@[simp] theorem State.memWrite_argl (s : State) (a n v : Nat) : (s.memWrite a n v).argl = s.argl := rfl
@[simp] theorem State.memWrite_dmem (s : State) (a n v : Nat) : (s.memWrite a n v).dmem = Dmem.writeLE s.dmem a n v := rfl
@[simp] theorem State.memWrite_resets (s : State) (a n v : Nat) : (s.memWrite a n v).resets = s.resets := rfl
@[simp] theorem State.memWrite_pending (s : State) (a n v : Nat) : (s.memWrite a n v).pending = s.pending := rfl
@[simp] theorem State.memWrite_readData (s : State) (a n v : Nat) : (s.memWrite a n v).readData = s.readData := rfl

@[simp] theorem State.finish_ie (s : State) : (s.finish).ie = s.ie := rfl
@[simp] theorem State.finish_status (s : State) : (s.finish).status = s.status.succeed s.opByte := rfl
@[simp] theorem State.finish_arg (s : State) : (s.finish).arg = s.arg := rfl
@[simp] theorem State.finish_res (s : State) : (s.finish).res = s.res := rfl
@[simp] theorem State.finish_slots (s : State) : (s.finish).slots = s.slots := rfl
@[simp] theorem State.finish_kwpre (s : State) : (s.finish).kwpre = s.kwpre := rfl
@[simp] theorem State.finish_kwrlb (s : State) : (s.finish).kwrlb = s.kwrlb := rfl
@[simp] theorem State.finish_cmdl (s : State) : (s.finish).cmdl = s.cmdl := rfl
@[simp] theorem State.finish_argl (s : State) : (s.finish).argl = s.argl := rfl
@[simp] theorem State.finish_dmem (s : State) : (s.finish).dmem = s.dmem := rfl
@[simp] theorem State.finish_resets (s : State) : (s.finish).resets = s.resets := rfl
@[simp] theorem State.finish_pending (s : State) : (s.finish).pending = s.pending := rfl
@[simp] theorem State.finish_readData (s : State) : (s.finish).readData = s.readData := rfl

@[simp] theorem State.raise_ie (s : State) (e : ErrCode) : (s.raise e).ie = s.ie := rfl
@[simp] theorem State.raise_status (s : State) (e : ErrCode) : (s.raise e).status = s.status.fail e s.opByte := rfl
@[simp] theorem State.raise_arg (s : State) (e : ErrCode) : (s.raise e).arg = s.arg := rfl
@[simp] theorem State.raise_res (s : State) (e : ErrCode) : (s.raise e).res = s.res := rfl
@[simp] theorem State.raise_slots (s : State) (e : ErrCode) : (s.raise e).slots = s.slots := rfl
@[simp] theorem State.raise_kwpre (s : State) (e : ErrCode) : (s.raise e).kwpre = s.kwpre := rfl
@[simp] theorem State.raise_kwrlb (s : State) (e : ErrCode) : (s.raise e).kwrlb = s.kwrlb := rfl
@[simp] theorem State.raise_cmdl (s : State) (e : ErrCode) : (s.raise e).cmdl = s.cmdl := rfl
@[simp] theorem State.raise_argl (s : State) (e : ErrCode) : (s.raise e).argl = s.argl := rfl
@[simp] theorem State.raise_dmem (s : State) (e : ErrCode) : (s.raise e).dmem = s.dmem := rfl
@[simp] theorem State.raise_resets (s : State) (e : ErrCode) : (s.raise e).resets = s.resets := rfl
@[simp] theorem State.raise_pending (s : State) (e : ErrCode) : (s.raise e).pending = s.pending := rfl
@[simp] theorem State.raise_readData (s : State) (e : ErrCode) : (s.raise e).readData = s.readData := rfl

@[simp] theorem State.accept_ie (s : State) (v : B64) : (s.accept v).ie = s.ie := rfl
@[simp] theorem State.accept_status (s : State) (v : B64) : (s.accept v).status = s.status.accept := rfl
@[simp] theorem State.accept_arg (s : State) (v : B64) : (s.accept v).arg = s.arg := rfl
@[simp] theorem State.accept_res (s : State) (v : B64) : (s.accept v).res = s.res := rfl
@[simp] theorem State.accept_slots (s : State) (v : B64) : (s.accept v).slots = s.slots := rfl
@[simp] theorem State.accept_kwpre (s : State) (v : B64) : (s.accept v).kwpre = s.kwpre := rfl
@[simp] theorem State.accept_kwrlb (s : State) (v : B64) : (s.accept v).kwrlb = s.kwrlb := rfl
@[simp] theorem State.accept_cmdl (s : State) (v : B64) : (s.accept v).cmdl = v := rfl
@[simp] theorem State.accept_argl (s : State) (v : B64) : (s.accept v).argl = s.arg := rfl
@[simp] theorem State.accept_dmem (s : State) (v : B64) : (s.accept v).dmem = s.dmem := rfl
@[simp] theorem State.accept_resets (s : State) (v : B64) : (s.accept v).resets = s.resets := rfl
@[simp] theorem State.accept_pending (s : State) (v : B64) : (s.accept v).pending = s.pending := rfl
@[simp] theorem State.accept_readData (s : State) (v : B64) : (s.accept v).readData = s.readData := rfl

@[simp] theorem State.softReset_ie (s : State) : (s.softReset).ie = false := rfl
@[simp] theorem State.softReset_status (s : State) : (s.softReset).status = Status.zero := rfl
@[simp] theorem State.softReset_arg (s : State) : (s.softReset).arg = Vector.replicate 8 0 := rfl
@[simp] theorem State.softReset_res (s : State) : (s.softReset).res = Vector.replicate 8 0 := rfl
@[simp] theorem State.softReset_slots (s : State) : (s.softReset).slots = Vector.replicate Config.nbq Biquad.unity := rfl
@[simp] theorem State.softReset_kwpre (s : State) : (s.softReset).kwpre = s.kwpre := rfl
@[simp] theorem State.softReset_kwrlb (s : State) : (s.softReset).kwrlb = s.kwrlb := rfl
@[simp] theorem State.softReset_cmdl (s : State) : (s.softReset).cmdl = s.cmdl := rfl
@[simp] theorem State.softReset_argl (s : State) : (s.softReset).argl = s.argl := rfl
@[simp] theorem State.softReset_dmem (s : State) : (s.softReset).dmem = s.dmem := rfl
@[simp] theorem State.softReset_resets (s : State) : (s.softReset).resets = s.resets := rfl
@[simp] theorem State.softReset_pending (s : State) : (s.softReset).pending = s.pending := rfl
@[simp] theorem State.softReset_readData (s : State) : (s.softReset).readData = s.readData := rfl

@[simp] theorem State.hardReset_ie (s : State) : (s.hardReset).ie = false := rfl
@[simp] theorem State.hardReset_status (s : State) : (s.hardReset).status = Status.zero := rfl
@[simp] theorem State.hardReset_arg (s : State) : (s.hardReset).arg = Vector.replicate 8 0 := rfl
@[simp] theorem State.hardReset_res (s : State) : (s.hardReset).res = Vector.replicate 8 0 := rfl
@[simp] theorem State.hardReset_slots (s : State) : (s.hardReset).slots = Vector.replicate Config.nbq Biquad.unity := rfl
@[simp] theorem State.hardReset_kwpre (s : State) : (s.hardReset).kwpre = Biquad.unity := rfl
@[simp] theorem State.hardReset_kwrlb (s : State) : (s.hardReset).kwrlb = Biquad.unity := rfl
@[simp] theorem State.hardReset_cmdl (s : State) : (s.hardReset).cmdl = 0 := rfl
@[simp] theorem State.hardReset_argl (s : State) : (s.hardReset).argl = Vector.replicate 8 0 := rfl
@[simp] theorem State.hardReset_dmem (s : State) : (s.hardReset).dmem = [] := rfl
@[simp] theorem State.hardReset_resets (s : State) : (s.hardReset).resets = s.resets + 1 := rfl
@[simp] theorem State.hardReset_pending (s : State) : (s.hardReset).pending = s.pending := rfl
@[simp] theorem State.hardReset_readData (s : State) : (s.hardReset).readData = s.readData := rfl

@[simp] theorem State.answer_ie (s : State) (v : B64) : (s.answer v).ie = s.ie := rfl
@[simp] theorem State.answer_status (s : State) (v : B64) : (s.answer v).status = s.status := rfl
@[simp] theorem State.answer_arg (s : State) (v : B64) : (s.answer v).arg = s.arg := rfl
@[simp] theorem State.answer_res (s : State) (v : B64) : (s.answer v).res = s.res := rfl
@[simp] theorem State.answer_slots (s : State) (v : B64) : (s.answer v).slots = s.slots := rfl
@[simp] theorem State.answer_kwpre (s : State) (v : B64) : (s.answer v).kwpre = s.kwpre := rfl
@[simp] theorem State.answer_kwrlb (s : State) (v : B64) : (s.answer v).kwrlb = s.kwrlb := rfl
@[simp] theorem State.answer_cmdl (s : State) (v : B64) : (s.answer v).cmdl = s.cmdl := rfl
@[simp] theorem State.answer_argl (s : State) (v : B64) : (s.answer v).argl = s.argl := rfl
@[simp] theorem State.answer_dmem (s : State) (v : B64) : (s.answer v).dmem = s.dmem := rfl
@[simp] theorem State.answer_resets (s : State) (v : B64) : (s.answer v).resets = s.resets := rfl
@[simp] theorem State.answer_pending (s : State) (v : B64) : (s.answer v).pending = s.pending := rfl
@[simp] theorem State.answer_readData (s : State) (v : B64) : (s.answer v).readData = some v := rfl

@[simp] theorem State.collide_ie (s : State) : (s.collide).ie = s.ie := rfl
@[simp] theorem State.collide_status (s : State) : (s.collide).status = s.status.collide := rfl
@[simp] theorem State.collide_arg (s : State) : (s.collide).arg = s.arg := rfl
@[simp] theorem State.collide_res (s : State) : (s.collide).res = s.res := rfl
@[simp] theorem State.collide_slots (s : State) : (s.collide).slots = s.slots := rfl
@[simp] theorem State.collide_kwpre (s : State) : (s.collide).kwpre = s.kwpre := rfl
@[simp] theorem State.collide_kwrlb (s : State) : (s.collide).kwrlb = s.kwrlb := rfl
@[simp] theorem State.collide_cmdl (s : State) : (s.collide).cmdl = s.cmdl := rfl
@[simp] theorem State.collide_argl (s : State) : (s.collide).argl = s.argl := rfl
@[simp] theorem State.collide_dmem (s : State) : (s.collide).dmem = s.dmem := rfl
@[simp] theorem State.collide_resets (s : State) : (s.collide).resets = s.resets := rfl
@[simp] theorem State.collide_pending (s : State) : (s.collide).pending = s.pending := rfl
@[simp] theorem State.collide_readData (s : State) : (s.collide).readData = s.readData := rfl

@[simp] theorem State.setLufs_ie (s : State) (n : Nat) (g : Gated) : (s.setLufs n g).ie = s.ie := rfl
@[simp] theorem State.setLufs_status (s : State) (n : Nat) (g : Gated) : (s.setLufs n g).status = s.status := rfl
@[simp] theorem State.setLufs_arg (s : State) (n : Nat) (g : Gated) : (s.setLufs n g).arg = s.arg := rfl
@[simp] theorem State.setLufs_slots (s : State) (n : Nat) (g : Gated) : (s.setLufs n g).slots = s.slots := rfl
@[simp] theorem State.setLufs_kwpre (s : State) (n : Nat) (g : Gated) : (s.setLufs n g).kwpre = s.kwpre := rfl
@[simp] theorem State.setLufs_kwrlb (s : State) (n : Nat) (g : Gated) : (s.setLufs n g).kwrlb = s.kwrlb := rfl
@[simp] theorem State.setLufs_cmdl (s : State) (n : Nat) (g : Gated) : (s.setLufs n g).cmdl = s.cmdl := rfl
@[simp] theorem State.setLufs_argl (s : State) (n : Nat) (g : Gated) : (s.setLufs n g).argl = s.argl := rfl
@[simp] theorem State.setLufs_dmem (s : State) (n : Nat) (g : Gated) : (s.setLufs n g).dmem = s.dmem := rfl
@[simp] theorem State.setLufs_resets (s : State) (n : Nat) (g : Gated) : (s.setLufs n g).resets = s.resets := rfl
@[simp] theorem State.setLufs_pending (s : State) (n : Nat) (g : Gated) : (s.setLufs n g).pending = s.pending := rfl
@[simp] theorem State.setLufs_readData (s : State) (n : Nat) (g : Gated) : (s.setLufs n g).readData = s.readData := rfl

@[simp] theorem State.setLufsEmpty_ie (s : State) : (s.setLufsEmpty).ie = s.ie := rfl
@[simp] theorem State.setLufsEmpty_status (s : State) : (s.setLufsEmpty).status = s.status := rfl
@[simp] theorem State.setLufsEmpty_arg (s : State) : (s.setLufsEmpty).arg = s.arg := rfl
@[simp] theorem State.setLufsEmpty_slots (s : State) : (s.setLufsEmpty).slots = s.slots := rfl
@[simp] theorem State.setLufsEmpty_kwpre (s : State) : (s.setLufsEmpty).kwpre = s.kwpre := rfl
@[simp] theorem State.setLufsEmpty_kwrlb (s : State) : (s.setLufsEmpty).kwrlb = s.kwrlb := rfl
@[simp] theorem State.setLufsEmpty_cmdl (s : State) : (s.setLufsEmpty).cmdl = s.cmdl := rfl
@[simp] theorem State.setLufsEmpty_argl (s : State) : (s.setLufsEmpty).argl = s.argl := rfl
@[simp] theorem State.setLufsEmpty_dmem (s : State) : (s.setLufsEmpty).dmem = s.dmem := rfl
@[simp] theorem State.setLufsEmpty_resets (s : State) : (s.setLufsEmpty).resets = s.resets := rfl
@[simp] theorem State.setLufsEmpty_pending (s : State) : (s.setLufsEmpty).pending = s.pending := rfl
@[simp] theorem State.setLufsEmpty_readData (s : State) : (s.setLufsEmpty).readData = s.readData := rfl

@[simp] theorem State.storeS_ie (s : State) (a : Nat) (v : B32) : (s.storeS a v).ie = s.ie := rfl
@[simp] theorem State.storeS_status (s : State) (a : Nat) (v : B32) : (s.storeS a v).status = s.status := rfl
@[simp] theorem State.storeS_arg (s : State) (a : Nat) (v : B32) : (s.storeS a v).arg = s.arg := rfl
@[simp] theorem State.storeS_res (s : State) (a : Nat) (v : B32) : (s.storeS a v).res = s.res := rfl
@[simp] theorem State.storeS_slots (s : State) (a : Nat) (v : B32) : (s.storeS a v).slots = s.slots := rfl
@[simp] theorem State.storeS_kwpre (s : State) (a : Nat) (v : B32) : (s.storeS a v).kwpre = s.kwpre := rfl
@[simp] theorem State.storeS_kwrlb (s : State) (a : Nat) (v : B32) : (s.storeS a v).kwrlb = s.kwrlb := rfl
@[simp] theorem State.storeS_cmdl (s : State) (a : Nat) (v : B32) : (s.storeS a v).cmdl = s.cmdl := rfl
@[simp] theorem State.storeS_argl (s : State) (a : Nat) (v : B32) : (s.storeS a v).argl = s.argl := rfl
@[simp] theorem State.storeS_dmem (s : State) (a : Nat) (v : B32) : (s.storeS a v).dmem = Dmem.writeLE s.dmem a 4 v.toNat := rfl
@[simp] theorem State.storeS_resets (s : State) (a : Nat) (v : B32) : (s.storeS a v).resets = s.resets := rfl
@[simp] theorem State.storeS_pending (s : State) (a : Nat) (v : B32) : (s.storeS a v).pending = s.pending := rfl
@[simp] theorem State.storeS_readData (s : State) (a : Nat) (v : B32) : (s.storeS a v).readData = s.readData := rfl

@[simp] theorem State.storeD_ie (s : State) (a : Nat) (v : B64) : (s.storeD a v).ie = s.ie := rfl
@[simp] theorem State.storeD_status (s : State) (a : Nat) (v : B64) : (s.storeD a v).status = s.status := rfl
@[simp] theorem State.storeD_arg (s : State) (a : Nat) (v : B64) : (s.storeD a v).arg = s.arg := rfl
@[simp] theorem State.storeD_res (s : State) (a : Nat) (v : B64) : (s.storeD a v).res = s.res := rfl
@[simp] theorem State.storeD_slots (s : State) (a : Nat) (v : B64) : (s.storeD a v).slots = s.slots := rfl
@[simp] theorem State.storeD_kwpre (s : State) (a : Nat) (v : B64) : (s.storeD a v).kwpre = s.kwpre := rfl
@[simp] theorem State.storeD_kwrlb (s : State) (a : Nat) (v : B64) : (s.storeD a v).kwrlb = s.kwrlb := rfl
@[simp] theorem State.storeD_cmdl (s : State) (a : Nat) (v : B64) : (s.storeD a v).cmdl = s.cmdl := rfl
@[simp] theorem State.storeD_argl (s : State) (a : Nat) (v : B64) : (s.storeD a v).argl = s.argl := rfl
@[simp] theorem State.storeD_dmem (s : State) (a : Nat) (v : B64) : (s.storeD a v).dmem = Dmem.writeLE s.dmem a 8 v.toNat := rfl
@[simp] theorem State.storeD_resets (s : State) (a : Nat) (v : B64) : (s.storeD a v).resets = s.resets := rfl
@[simp] theorem State.storeD_pending (s : State) (a : Nat) (v : B64) : (s.storeD a v).pending = s.pending := rfl
@[simp] theorem State.storeD_readData (s : State) (a : Nat) (v : B64) : (s.storeD a v).readData = s.readData := rfl

@[simp] theorem State.storeSamples_ie (s : State) (a : Nat) (vs : List B32) : (s.storeSamples a vs).ie = s.ie := by
  induction vs generalizing s a with
  | nil => rfl
  | cons v vs ih => exact ih _ _

@[simp] theorem State.storeSamples_status (s : State) (a : Nat) (vs : List B32) : (s.storeSamples a vs).status = s.status := by
  induction vs generalizing s a with
  | nil => rfl
  | cons v vs ih => exact ih _ _

@[simp] theorem State.storeSamples_arg (s : State) (a : Nat) (vs : List B32) : (s.storeSamples a vs).arg = s.arg := by
  induction vs generalizing s a with
  | nil => rfl
  | cons v vs ih => exact ih _ _

@[simp] theorem State.storeSamples_res (s : State) (a : Nat) (vs : List B32) : (s.storeSamples a vs).res = s.res := by
  induction vs generalizing s a with
  | nil => rfl
  | cons v vs ih => exact ih _ _

@[simp] theorem State.storeSamples_slots (s : State) (a : Nat) (vs : List B32) : (s.storeSamples a vs).slots = s.slots := by
  induction vs generalizing s a with
  | nil => rfl
  | cons v vs ih => exact ih _ _

@[simp] theorem State.storeSamples_kwpre (s : State) (a : Nat) (vs : List B32) : (s.storeSamples a vs).kwpre = s.kwpre := by
  induction vs generalizing s a with
  | nil => rfl
  | cons v vs ih => exact ih _ _

@[simp] theorem State.storeSamples_kwrlb (s : State) (a : Nat) (vs : List B32) : (s.storeSamples a vs).kwrlb = s.kwrlb := by
  induction vs generalizing s a with
  | nil => rfl
  | cons v vs ih => exact ih _ _

@[simp] theorem State.storeSamples_cmdl (s : State) (a : Nat) (vs : List B32) : (s.storeSamples a vs).cmdl = s.cmdl := by
  induction vs generalizing s a with
  | nil => rfl
  | cons v vs ih => exact ih _ _

@[simp] theorem State.storeSamples_argl (s : State) (a : Nat) (vs : List B32) : (s.storeSamples a vs).argl = s.argl := by
  induction vs generalizing s a with
  | nil => rfl
  | cons v vs ih => exact ih _ _

@[simp] theorem State.storeSamples_resets (s : State) (a : Nat) (vs : List B32) : (s.storeSamples a vs).resets = s.resets := by
  induction vs generalizing s a with
  | nil => rfl
  | cons v vs ih => exact ih _ _

@[simp] theorem State.storeSamples_pending (s : State) (a : Nat) (vs : List B32) : (s.storeSamples a vs).pending = s.pending := by
  induction vs generalizing s a with
  | nil => rfl
  | cons v vs ih => exact ih _ _

@[simp] theorem State.storeSamples_readData (s : State) (a : Nat) (vs : List B32) : (s.storeSamples a vs).readData = s.readData := by
  induction vs generalizing s a with
  | nil => rfl
  | cons v vs ih => exact ih _ _

@[simp] theorem State.storePowers_ie (s : State) (a : Nat) (vs : List B64) : (s.storePowers a vs).ie = s.ie := by
  induction vs generalizing s a with
  | nil => rfl
  | cons v vs ih => exact ih _ _

@[simp] theorem State.storePowers_status (s : State) (a : Nat) (vs : List B64) : (s.storePowers a vs).status = s.status := by
  induction vs generalizing s a with
  | nil => rfl
  | cons v vs ih => exact ih _ _

@[simp] theorem State.storePowers_arg (s : State) (a : Nat) (vs : List B64) : (s.storePowers a vs).arg = s.arg := by
  induction vs generalizing s a with
  | nil => rfl
  | cons v vs ih => exact ih _ _

@[simp] theorem State.storePowers_res (s : State) (a : Nat) (vs : List B64) : (s.storePowers a vs).res = s.res := by
  induction vs generalizing s a with
  | nil => rfl
  | cons v vs ih => exact ih _ _

@[simp] theorem State.storePowers_slots (s : State) (a : Nat) (vs : List B64) : (s.storePowers a vs).slots = s.slots := by
  induction vs generalizing s a with
  | nil => rfl
  | cons v vs ih => exact ih _ _

@[simp] theorem State.storePowers_kwpre (s : State) (a : Nat) (vs : List B64) : (s.storePowers a vs).kwpre = s.kwpre := by
  induction vs generalizing s a with
  | nil => rfl
  | cons v vs ih => exact ih _ _

@[simp] theorem State.storePowers_kwrlb (s : State) (a : Nat) (vs : List B64) : (s.storePowers a vs).kwrlb = s.kwrlb := by
  induction vs generalizing s a with
  | nil => rfl
  | cons v vs ih => exact ih _ _

@[simp] theorem State.storePowers_cmdl (s : State) (a : Nat) (vs : List B64) : (s.storePowers a vs).cmdl = s.cmdl := by
  induction vs generalizing s a with
  | nil => rfl
  | cons v vs ih => exact ih _ _

@[simp] theorem State.storePowers_argl (s : State) (a : Nat) (vs : List B64) : (s.storePowers a vs).argl = s.argl := by
  induction vs generalizing s a with
  | nil => rfl
  | cons v vs ih => exact ih _ _

@[simp] theorem State.storePowers_resets (s : State) (a : Nat) (vs : List B64) : (s.storePowers a vs).resets = s.resets := by
  induction vs generalizing s a with
  | nil => rfl
  | cons v vs ih => exact ih _ _

@[simp] theorem State.storePowers_pending (s : State) (a : Nat) (vs : List B64) : (s.storePowers a vs).pending = s.pending := by
  induction vs generalizing s a with
  | nil => rfl
  | cons v vs ih => exact ih _ _

@[simp] theorem State.storePowers_readData (s : State) (a : Nat) (vs : List B64) : (s.storePowers a vs).readData = s.readData := by
  induction vs generalizing s a with
  | nil => rfl
  | cons v vs ih => exact ih _ _

@[simp] theorem Status.accept_busy (st : Status) : (st.accept).busy = true := rfl
@[simp] theorem Status.accept_done (st : Status) : (st.accept).done = false := rfl
@[simp] theorem Status.accept_err (st : Status) : (st.accept).err = st.err := rfl
@[simp] theorem Status.accept_ovr (st : Status) : (st.accept).ovr = st.ovr := rfl
@[simp] theorem Status.accept_coll (st : Status) : (st.accept).coll = st.coll := rfl
@[simp] theorem Status.accept_errcode (st : Status) : (st.accept).errcode = st.errcode := rfl
@[simp] theorem Status.accept_lastop (st : Status) : (st.accept).lastop = st.lastop := rfl

@[simp] theorem Status.overrun_busy (st : Status) : (st.overrun).busy = st.busy := rfl
@[simp] theorem Status.overrun_done (st : Status) : (st.overrun).done = st.done := rfl
@[simp] theorem Status.overrun_err (st : Status) : (st.overrun).err = st.err := rfl
@[simp] theorem Status.overrun_ovr (st : Status) : (st.overrun).ovr = true := rfl
@[simp] theorem Status.overrun_coll (st : Status) : (st.overrun).coll = st.coll := rfl
@[simp] theorem Status.overrun_errcode (st : Status) : (st.overrun).errcode = st.errcode := rfl
@[simp] theorem Status.overrun_lastop (st : Status) : (st.overrun).lastop = st.lastop := rfl

@[simp] theorem Status.collide_busy (st : Status) : (st.collide).busy = st.busy := rfl
@[simp] theorem Status.collide_done (st : Status) : (st.collide).done = st.done := rfl
@[simp] theorem Status.collide_err (st : Status) : (st.collide).err = st.err := rfl
@[simp] theorem Status.collide_ovr (st : Status) : (st.collide).ovr = st.ovr := rfl
@[simp] theorem Status.collide_coll (st : Status) : (st.collide).coll = true := rfl
@[simp] theorem Status.collide_errcode (st : Status) : (st.collide).errcode = st.errcode := rfl
@[simp] theorem Status.collide_lastop (st : Status) : (st.collide).lastop = st.lastop := rfl

@[simp] theorem Status.succeed_busy (st : Status) (op : BitVec 8) : (st.succeed op).busy = false := rfl
@[simp] theorem Status.succeed_done (st : Status) (op : BitVec 8) : (st.succeed op).done = true := rfl
@[simp] theorem Status.succeed_err (st : Status) (op : BitVec 8) : (st.succeed op).err = st.err := rfl
@[simp] theorem Status.succeed_ovr (st : Status) (op : BitVec 8) : (st.succeed op).ovr = st.ovr := rfl
@[simp] theorem Status.succeed_coll (st : Status) (op : BitVec 8) : (st.succeed op).coll = st.coll := rfl
@[simp] theorem Status.succeed_errcode (st : Status) (op : BitVec 8) : (st.succeed op).errcode = 0x00 := rfl
@[simp] theorem Status.succeed_lastop (st : Status) (op : BitVec 8) : (st.succeed op).lastop = op := rfl

@[simp] theorem Status.fail_busy (st : Status) (e : ErrCode) (op : BitVec 8) : (st.fail e op).busy = false := rfl
@[simp] theorem Status.fail_done (st : Status) (e : ErrCode) (op : BitVec 8) : (st.fail e op).done = true := rfl
@[simp] theorem Status.fail_err (st : Status) (e : ErrCode) (op : BitVec 8) : (st.fail e op).err = true := rfl
@[simp] theorem Status.fail_ovr (st : Status) (e : ErrCode) (op : BitVec 8) : (st.fail e op).ovr = st.ovr := rfl
@[simp] theorem Status.fail_coll (st : Status) (e : ErrCode) (op : BitVec 8) : (st.fail e op).coll = st.coll := rfl
@[simp] theorem Status.fail_errcode (st : Status) (e : ErrCode) (op : BitVec 8) : (st.fail e op).errcode = e.byte := rfl
@[simp] theorem Status.fail_lastop (st : Status) (e : ErrCode) (op : BitVec 8) : (st.fail e op).lastop = op := rfl

@[simp] theorem Status.writeOneToClear_busy (st : Status) (v : B64) : (st.writeOneToClear v).busy = st.busy := rfl
@[simp] theorem Status.writeOneToClear_done (st : Status) (v : B64) : (st.writeOneToClear v).done = (st.done && !v.getLsbD 1) := rfl
@[simp] theorem Status.writeOneToClear_err (st : Status) (v : B64) : (st.writeOneToClear v).err = (st.err && !v.getLsbD 2) := rfl
@[simp] theorem Status.writeOneToClear_ovr (st : Status) (v : B64) : (st.writeOneToClear v).ovr = (st.ovr && !v.getLsbD 3) := rfl
@[simp] theorem Status.writeOneToClear_coll (st : Status) (v : B64) : (st.writeOneToClear v).coll = (st.coll && !v.getLsbD 4) := rfl
@[simp] theorem Status.writeOneToClear_errcode (st : Status) (v : B64) : (st.writeOneToClear v).errcode = st.errcode := rfl
@[simp] theorem Status.writeOneToClear_lastop (st : Status) (v : B64) : (st.writeOneToClear v).lastop = st.lastop := rfl

end Sys2Proof.Machine
end

