-- ==== Sys2Proof/Laws/Memory.lean ====
section
/-!
SUPPORT. What the memory operations do: read after write, the frame of a write, and the canonical form, which every
operation keeps.
-/

namespace Sys2Proof.Machine

theorem Dmem.read_write_same (m : Dmem) (a : Nat) (v : Byte) : Dmem.read (Dmem.write m a v) a = some v := by
  induction m with
  | nil => simp [Dmem.write, Dmem.read]
  | cons c m ih =>
    obtain ⟨b, w⟩ := c
    rcases Nat.lt_trichotomy a b with h | h | h
    · simp [Dmem.write, Dmem.read, h, Nat.ne_of_lt h]
    · simp [Dmem.write, Dmem.read, h]
    · simp [Dmem.write, Dmem.read, Nat.ne_of_gt h, Nat.not_lt_of_gt h, ih]

theorem Dmem.read_write_other (m : Dmem) (a a' : Nat) (v : Byte) (h : a' ≠ a) :
    Dmem.read (Dmem.write m a v) a' = Dmem.read m a' := by
  induction m with
  | nil => simp [Dmem.write, Dmem.read, h]
  | cons c m ih =>
    obtain ⟨b, w⟩ := c
    simp only [Dmem.write]
    split
    · next hab => subst hab; simp [Dmem.read, h]
    · split
      · next hab hlt =>
        simp only [Dmem.read, if_neg h]
        by_cases h1 : a' < a
        · have : a' ≠ b := by omega
          have : a' < b := by omega
          simp [*]
        · simp [h1]
      · simp only [Dmem.read, ih]

theorem Dmem.read_write (m : Dmem) (a a' : Nat) (v : Byte) :
    Dmem.read (Dmem.write m a v) a' = if a' = a then some v else Dmem.read m a' := by
  split
  · next h => subst h; exact Dmem.read_write_same _ _ _
  · next h => exact Dmem.read_write_other _ _ _ _ h

/-- A little-endian write changes no byte outside its `n` bytes. -/
theorem Dmem.read_writeLE_outside (n : Nat) : ∀ (m : Dmem) (a v a' : Nat), a' < a ∨ a + n ≤ a' →
    Dmem.read (Dmem.writeLE m a n v) a' = Dmem.read m a' := by
  induction n with
  | zero => intro m a v a' _; rfl
  | succ n ih =>
    intro m a v a' h
    rw [Dmem.writeLE, ih _ _ _ _ (by omega), Dmem.read_write_other _ _ _ _ (by omega)]

/-- Byte `j` of a little-endian write (R81). -/
theorem Dmem.read_writeLE_inside (n : Nat) : ∀ (m : Dmem) (a v j : Nat), j < n →
    Dmem.read (Dmem.writeLE m a n v) (a + j) = some (BitVec.ofNat 8 (v / 256 ^ j)) := by
  induction n with
  | zero => intro _ _ _ _ h; omega
  | succ n ih =>
    intro m a v j h
    rw [Dmem.writeLE]
    cases j with
    | zero => rw [Dmem.read_writeLE_outside _ _ _ _ _ (by omega)]; simp [Dmem.read_write_same]
    | succ j =>
      have := ih (m.write a (BitVec.ofNat 8 v)) (a + 1) (v / 256) j (by omega)
      rw [show a + (j + 1) = a + 1 + j by omega, this, Nat.div_div_eq_div_mul, Nat.pow_succ, Nat.mul_comm 256]

/-- The offsets of a memory after a write of one byte. -/
theorem Dmem.mem_write {m : Dmem} {a : Nat} {v : Byte} {c : Host.Cell} (h : c ∈ Dmem.write m a v) :
    c = (a, v) ∨ c ∈ m := by
  induction m with
  | nil => simpa [Dmem.write] using h
  | cons d m ih =>
    obtain ⟨b, w⟩ := d
    simp only [Dmem.write] at h
    split at h
    · simp at h ⊢; tauto
    · split at h
      · simpa using h
      · rcases List.mem_cons.1 h with h | h
        · simp [h]
        · rcases ih h with h | h <;> simp [h]

theorem Dmem.wf_iff (m : Dmem) :
    Dmem.wf m = true ↔ List.Pairwise (fun c d : Host.Cell => c.1 < d.1) m ∧ ∀ c ∈ m, c.1 < Config.dmemBytes := by
  simp [Dmem.wf]

/-- A write inside DMEM keeps the canonical form. -/
theorem Dmem.wf_write {m : Dmem} {a : Nat} {v : Byte} (hm : Dmem.wf m = true) (ha : a < Config.dmemBytes) :
    Dmem.wf (Dmem.write m a v) = true := by
  rw [Dmem.wf_iff] at hm ⊢
  refine ⟨?_, fun c hc => ?_⟩
  · obtain ⟨hm, -⟩ := hm
    induction m with
    | nil => simp [Dmem.write]
    | cons d m ih =>
      obtain ⟨b, w⟩ := d
      rw [List.pairwise_cons] at hm
      simp only [Dmem.write]
      split
      · next h => subst h; exact List.pairwise_cons.2 hm
      · split
        · next h =>
          refine List.pairwise_cons.2 ⟨fun c hc => ?_, List.pairwise_cons.2 hm⟩
          rcases List.mem_cons.1 hc with rfl | hc
          · exact h
          · exact Nat.lt_trans h (hm.1 c hc)
        · refine List.pairwise_cons.2 ⟨fun c hc => ?_, ih hm.2⟩
          rcases Dmem.mem_write hc with rfl | hc
          · simp only; omega
          · exact hm.1 c hc
  · rcases Dmem.mem_write hc with rfl | hc
    · exact ha
    · exact hm.2 c hc

theorem Dmem.wf_writeLE (n : Nat) : ∀ {m : Dmem} {a v : Nat}, Dmem.wf m = true → a + n ≤ Config.dmemBytes →
    Dmem.wf (Dmem.writeLE m a n v) = true := by
  induction n with
  | zero => intro _ _ _ hm _; exact hm
  | succ n ih => intro m a v hm ha; exact ih (Dmem.wf_write hm (by omega)) (by omega)

/-- Storing samples keeps the canonical form when the stored region is inside DMEM. -/
theorem State.wf_storeSamples (vs : List B32) : ∀ (s : State) (a : Nat), Dmem.wf s.dmem = true →
    a + 4 * vs.length ≤ Config.dmemBytes → Dmem.wf (s.storeSamples a vs).dmem = true := by
  induction vs with
  | nil => intro s a hs _; exact hs
  | cons v vs ih =>
    intro s a hs ha
    simp only [List.length_cons] at ha
    exact ih _ _ (Dmem.wf_writeLE 4 hs (by omega)) (by omega)

/-- Storing block powers keeps the canonical form when the stored region is inside DMEM. -/
theorem State.wf_storePowers (vs : List B64) : ∀ (s : State) (a : Nat), Dmem.wf s.dmem = true →
    a + 8 * vs.length ≤ Config.dmemBytes → Dmem.wf (s.storePowers a vs).dmem = true := by
  induction vs with
  | nil => intro s a hs _; exact hs
  | cons v vs ih =>
    intro s a hs ha
    simp only [List.length_cons] at ha
    exact ih _ _ (Dmem.wf_writeLE 8 hs (by omega)) (by omega)

theorem State.wf_reset : Dmem.wf State.reset.dmem = true := by decide

/-- The memory is empty in canonical form, and two canonical memories that read alike are equal. -/
theorem Dmem.eq_of_read_eq {m m' : Dmem} (hm : Dmem.wf m = true) (hm' : Dmem.wf m' = true)
    (h : ∀ a, Dmem.read m a = Dmem.read m' a) : m = m' := by
  rw [Dmem.wf_iff] at hm hm'
  replace hm := hm.1
  replace hm' := hm'.1
  induction m generalizing m' with
  | nil =>
    cases m' with
    | nil => rfl
    | cons d m' => have := h d.1; simp [Dmem.read] at this
  | cons c m ih =>
    cases m' with
    | nil => have := h c.1; simp [Dmem.read] at this
    | cons d m' =>
      obtain ⟨b, w⟩ := c
      obtain ⟨b', w'⟩ := d
      have hb : b = b' := by
        have h1 := h b
        have h2 := h b'
        simp only [Dmem.read, if_true] at h1 h2
        rcases Nat.lt_trichotomy b b' with hlt | heq | hlt
        · simp [Nat.ne_of_lt hlt, hlt] at h1
        · exact heq
        · simp [Nat.ne_of_lt hlt, hlt] at h2
      subst hb
      have hw : w = w' := by simpa [Dmem.read] using h b
      subst hw
      rw [List.pairwise_cons] at hm hm'
      refine congrArg _ (ih (fun a => ?_) hm.2 hm'.2)
      have below : ∀ {l : Dmem}, (∀ c ∈ l, b < c.1) → a ≤ b → Dmem.read l a = none := by
        intro l hl hab
        cases l with
        | nil => rfl
        | cons c l =>
          have := hl c (by simp)
          obtain ⟨x, y⟩ := c
          simp only at this
          have h1 : a ≠ x := by omega
          have h2 : a < x := by omega
          simp [Dmem.read, h1, h2]
      by_cases hab : a ≤ b
      · rw [below hm.1 hab, below hm'.1 hab]
      · have := h a
        have h1 : a ≠ b := by omega
        have h2 : ¬ a < b := by omega
        simpa [Dmem.read, h1, h2] using this

/-- `MemRead` depends only on the bytes it reads. -/
theorem State.memRead_congr (n : Nat) : ∀ {s t : State} {a : Nat}, (∀ j, j < n → t.byteAt (a + j) = s.byteAt (a + j)) →
    t.memRead a n = s.memRead a n := by
  induction n with
  | zero => intro _ _ _ _; rfl
  | succ n ih =>
    intro s t a h
    have h0 := h 0 (by omega)
    simp only [Nat.add_zero] at h0
    have h1 : t.memRead (a + 1) n = s.memRead (a + 1) n :=
      ih fun j hj => by have := h (j + 1) (by omega); rwa [show a + (j + 1) = a + 1 + j by omega] at this
    simp only [State.memRead, h0, h1]

/-- A memory write changes no byte outside its `n` bytes. -/
theorem State.byteAt_memWrite_outside (s : State) (a n v a' : Nat) (h : a' < a ∨ a + n ≤ a') :
    (s.memWrite a n v).byteAt a' = s.byteAt a' := by
  simp [State.byteAt, Dmem.read_writeLE_outside _ _ _ _ _ h]

/-- Storing samples changes no byte outside the region. -/
theorem State.byteAt_storeSamples_outside (vs : List B32) : ∀ (s : State) (a a' : Nat), a' < a ∨ a + 4 * vs.length ≤ a' →
    (s.storeSamples a vs).byteAt a' = s.byteAt a' := by
  induction vs with
  | nil => intro s a a' _; rfl
  | cons v vs ih =>
    intro s a a' h
    simp only [List.length_cons] at h
    rw [State.storeSamples, ih _ _ _ (by omega)]
    exact State.byteAt_memWrite_outside _ _ _ _ _ (by omega)

/-- Storing block powers changes no byte outside the region. -/
theorem State.byteAt_storePowers_outside (vs : List B64) : ∀ (s : State) (a a' : Nat), a' < a ∨ a + 8 * vs.length ≤ a' →
    (s.storePowers a vs).byteAt a' = s.byteAt a' := by
  induction vs with
  | nil => intro s a a' _; rfl
  | cons v vs ih =>
    intro s a a' h
    simp only [List.length_cons] at h
    rw [State.storePowers, ih _ _ _ (by omega)]
    exact State.byteAt_memWrite_outside _ _ _ _ _ (by omega)

theorem State.length_loadSamples (s : State) (a n : Nat) : (s.loadSamples a n).length = n := by
  simp [State.loadSamples]

end Sys2Proof.Machine
end

