-- ==== Sys2Proof/Laws/Ops.lean ====
section
/-!
SUPPORT. What each shared operation and each meaning can answer, said once: the checks, the filters, the completion of
a command, a host access and a step. The provers cite these instead of unfolding the machine.
-/

namespace Sys2Proof.Machine

/-! ### Checks and operands -/

@[simp] theorem slotIndex_of_lt {slot : BitVec 4} (h : slot.toNat < Config.nbq) :
    slotIndex slot = some ⟨slot.toNat, h⟩ := dif_pos h

@[simp] theorem slotIndex_of_not_lt {slot : BitVec 4} (h : ¬ slot.toNat < Config.nbq) : slotIndex slot = none :=
  dif_neg h

theorem slotIndex_eq_some {slot : BitVec 4} {k : Fin Config.nbq} (h : slotIndex slot = some k) : k.val = slot.toNat := by
  unfold slotIndex at h
  split at h <;> simp_all
  exact h ▸ rfl

theorem inRange_iff (a len : Nat) : inRange a len = true ↔ len = 0 ∨ a + len ≤ Config.dmemBytes := by
  simp [inRange]

theorem overlap_iff (a1 l1 a2 l2 : Nat) :
    overlap a1 l1 a2 l2 = true ↔ l1 ≠ 0 ∧ l2 ≠ 0 ∧ a1 < a2 + l2 ∧ a2 < a1 + l1 := by
  simp [overlap, and_assoc]

/-- All checks pass exactly when every condition holds. -/
theorem firstError_eq_none (cs : List (Bool × ErrCode)) : firstError cs = none ↔ ∀ c ∈ cs, c.1 = true := by
  induction cs with
  | nil => simp [firstError]
  | cons c cs ih => obtain ⟨ok, e⟩ := c; cases ok <;> simp [firstError, ih]

/-- The code reported belongs to a check that failed, and every check before it passed (R146). -/
theorem firstError_eq_some (cs : List (Bool × ErrCode)) (e : ErrCode) :
    firstError cs = some e ↔ ∃ pre post, cs = pre ++ (false, e) :: post ∧ ∀ c ∈ pre, c.1 = true := by
  induction cs with
  | nil => simp [firstError]
  | cons c cs ih =>
    obtain ⟨ok, e'⟩ := c
    cases ok
    · simp only [firstError, Bool.false_eq_true, if_false, Option.some.injEq]
      constructor
      · rintro rfl; exact ⟨[], cs, rfl, by simp⟩
      · rintro ⟨pre, post, hcs, hpre⟩
        cases pre with
        | nil => simpa using congrArg (Prod.snd ∘ fun l => l.headD (false, e')) hcs
        | cons d pre => simp at hcs; have := hpre d (by simp); simp [← hcs.1] at this
    · simp only [firstError, if_true, ih]
      constructor
      · rintro ⟨pre, post, rfl, hpre⟩
        exact ⟨(true, e') :: pre, post, rfl, by simpa using hpre⟩
      · rintro ⟨pre, post, hcs, hpre⟩
        cases pre with
        | nil => simp at hcs
        | cons d pre =>
          simp only [List.cons_append, List.cons.injEq] at hcs
          exact ⟨pre, post, hcs.2, fun c hc => hpre c (by simp [hc])⟩

/-- The checks of BQ_RUN and KW_APPLY pass exactly when the operands are aligned, in range and do not overlap but in
place. -/
theorem bufferChecks_pass (src dst n : Nat) : firstError (bufferChecks src dst n) = none ↔
    (src % 4 = 0 ∧ dst % 4 = 0) ∧ (inRange src (4 * n) = true ∧ inRange dst (4 * n) = true) ∧
      (overlap src (4 * n) dst (4 * n) = true → src = dst) := by
  simp only [firstError_eq_none, bufferChecks, List.forall_mem_cons, List.not_mem_nil, false_implies, implies_true, and_true,
    Bool.and_eq_true, beq_iff_eq, Bool.not_eq_true', Bool.and_eq_false_iff, bne_eq_false_iff_eq]
  cases overlap src (4 * n) dst (4 * n) <;> simp

theorem channelsInRange_iff (base stride n c : Nat) : channelsInRange base stride n c = true ↔
    ∀ k, k < c → inRange (channelBase base stride k) (4 * n) = true := by
  simp [channelsInRange]

theorem clearOfChannels_iff (a len base stride n c : Nat) : clearOfChannels a len base stride n c = true ↔
    ∀ k, k < c → overlap a len (channelBase base stride k) (4 * n) = false := by
  simp [clearOfChannels]

theorem lufsChecks_pass (base stride n bp nblk c : Nat) : firstError (lufsChecks base stride n bp nblk c) = none ↔
    ((base % 4 = 0 ∧ stride % 4 = 0) ∧ bp % 8 = 0) ∧
      (channelsInRange base stride n c = true ∧ inRange bp (8 * nblk) = true) ∧
      clearOfChannels bp (8 * nblk) base stride n c = true := by
  simp [firstError_eq_none, lufsChecks]

theorem tpChecks_pass (base stride n c : Nat) : firstError (tpChecks base stride n c) = none ↔
    (base % 4 = 0 ∧ stride % 4 = 0) ∧ channelsInRange base stride n c = true := by
  simp [firstError_eq_none, tpChecks]

theorem rateOf_eq_some (hz : Nat) (r : KwRate) : rateOf hz = some r ↔
    (hz = 48000 ∧ r = .hz48000) ∨ (hz = 44100 ∧ r = .hz44100) := by
  unfold rateOf
  split
  · next h => subst h; cases r <;> simp
  · split
    · next h => subst h; cases r <;> simp
    · simp_all

/-! ### Filters -/

@[simp] theorem df1_fst (f : Biquad) (x : B64) : (df1 f x).1 = f.output x := by rw [df1]

/-- A filter step leaves the coefficients alone and shifts the state (R169). -/
theorem df1_snd (f : Biquad) (x : B64) :
    (df1 f x).2 = { f with x2 := f.x1, x1 := x, y2 := f.y1, y1 := f.output x } := by rw [df1]

@[simp] theorem runFilter_nil (f : Biquad) : runFilter f [] = ([], f) := rfl

@[simp] theorem runFilter_cons_fst (f : Biquad) (x : B32) (xs : List B32) :
    (runFilter f (x :: xs)).1 = round32 (df1 f (widen x)).1 :: (runFilter (df1 f (widen x)).2 xs).1 := by
  simp only [runFilter]

@[simp] theorem runFilter_cons_snd (f : Biquad) (x : B32) (xs : List B32) :
    (runFilter f (x :: xs)).2 = (runFilter (df1 f (widen x)).2 xs).2 := by
  simp only [runFilter]

/-- A filter run gives one output for each input. -/
@[simp] theorem length_runFilter (xs : List B32) : ∀ f : Biquad, (runFilter f xs).1.length = xs.length := by
  induction xs with
  | nil => intro f; rfl
  | cons x xs ih => intro f; simp [ih]

@[simp] theorem length_kWeight (r : KwRate) (xs : List B32) : (kWeight r xs).length = xs.length := by
  simp [kWeight, kwRlbPass, kwPrePass]

/-! ### Completion -/

/-- What an answer of a meaning can be: the state with an error completion, or a state that success completed. The
second disjunct names everything a command can write (R152): slots, RES, DMEM and the internal filters. -/
inductive Completes (s : State) : State → Prop where
  | error (e : ErrCode) : Completes s (s.raise e)
  | success (slots : Vector Biquad Config.nbq) (res : Vector B64 8) (dmem : Dmem) (kwpre kwrlb : Biquad) :
    Completes s ({ s with slots := slots, res := res, dmem := dmem, kwpre := kwpre, kwrlb := kwrlb } : State).finish

/-- A state that differs from `s` only in what a command can write, completed with success. -/
theorem Completes.of_same {s u : State} (h1 : u.ie = s.ie) (h2 : u.status = s.status) (h3 : u.arg = s.arg)
    (h4 : u.cmdl = s.cmdl) (h5 : u.argl = s.argl) (h6 : u.resets = s.resets) (h7 : u.pending = s.pending)
    (h8 : u.readData = s.readData) : Completes s u.finish := by
  have : u = { s with slots := u.slots, res := u.res, dmem := u.dmem, kwpre := u.kwpre, kwrlb := u.kwrlb } := by
    cases s; cases u; simp_all
  rw [this]
  exact .success _ _ _ _ _

theorem State.storeSamples_eq (vs : List B32) : ∀ (s : State) (a : Nat),
    s.storeSamples a vs = { s with dmem := (s.storeSamples a vs).dmem } := by
  induction vs with
  | nil => intro s a; rfl
  | cons v vs ih => intro s a; rw [State.storeSamples, ih]; rfl

theorem State.storePowers_eq (vs : List B64) : ∀ (s : State) (a : Nat),
    s.storePowers a vs = { s with dmem := (s.storePowers a vs).dmem } := by
  induction vs with
  | nil => intro s a; rfl
  | cons v vs ih => intro s a; rw [State.storePowers, ih]; rfl

theorem execNop_eq (s : State) : execNop s = .next s.finish := rfl

/-- BQ_LOAD: an absent slot is ILLCMD, a present one takes the constructed biquad. -/
theorem execBqLoad_cases (slot : BitVec 4) (s : State) :
    (slotIndex slot = none ∧ execBqLoad slot s = .next (s.raise .illcmd)) ∨
    ∃ k, slotIndex slot = some k ∧ execBqLoad slot s =
      .next (s.setSlot k (constructed (s.argB 0) (s.argB 1) (s.argB 2) (s.argB 3) (s.argB 4) (s.argB 5))).finish := by
  unfold execBqLoad
  cases slotIndex slot with
  | none => exact .inl ⟨rfl, rfl⟩
  | some k => exact .inr ⟨k, rfl, rfl⟩

theorem execBqReset_cases (slot : BitVec 4) (s : State) :
    (slotIndex slot = none ∧ execBqReset slot s = .next (s.raise .illcmd)) ∨
    ∃ k, slotIndex slot = some k ∧ execBqReset slot s = .next (s.setSlot k s.slots[k].zeroState).finish := by
  unfold execBqReset
  cases slotIndex slot with
  | none => exact .inl ⟨rfl, rfl⟩
  | some k => exact .inr ⟨k, rfl, rfl⟩

theorem execBqStep_cases (slot : BitVec 4) (s : State) :
    (slotIndex slot = none ∧ execBqStep slot s = .next (s.raise .illcmd)) ∨
    ∃ k, slotIndex slot = some k ∧ execBqStep slot s =
      .next ((s.setSlot k (df1 s.slots[k] (s.argB 0)).2).setRes 0 (df1 s.slots[k] (s.argB 0)).1).finish := by
  unfold execBqStep
  cases slotIndex slot with
  | none => exact .inl ⟨rfl, rfl⟩
  | some k => exact .inr ⟨k, rfl, rfl⟩

/-- BQ_RUN: an absent slot, the first failing check, or the run. -/
theorem execBqRun_cases (slot : BitVec 4) (s : State) :
    (slotIndex slot = none ∧ execBqRun slot s = .next (s.raise .illcmd)) ∨
    ∃ k, slotIndex slot = some k ∧
      ((∃ e, firstError (bufferChecks (s.argU 0) (s.argU 1) (s.argU 2)) = some e ∧ execBqRun slot s = .next (s.raise e)) ∨
       (firstError (bufferChecks (s.argU 0) (s.argU 1) (s.argU 2)) = none ∧
        execBqRun slot s =
          .next ((s.setSlot k (runFilter s.slots[k] (s.loadSamples (s.argU 0) (s.argU 2))).2).storeSamples (s.argU 1)
            (runFilter s.slots[k] (s.loadSamples (s.argU 0) (s.argU 2))).1).finish)) := by
  unfold execBqRun
  cases slotIndex slot with
  | none => exact .inl ⟨rfl, rfl⟩
  | some k =>
    refine .inr ⟨k, rfl, ?_⟩
    dsimp only
    cases firstError (bufferChecks (s.argU 0) (s.argU 1) (s.argU 2)) with
    | none => exact .inr ⟨rfl, rfl⟩
    | some e => exact .inl ⟨e, rfl, rfl⟩

/-- KW_APPLY: an unsupported rate, the first failing check, or the K-weighting. -/
theorem execKwApply_cases (s : State) :
    (rateOf (s.argU 3) = none ∧ execKwApply s = .next (s.raise .rate)) ∨
    ∃ r, rateOf (s.argU 3) = some r ∧
      ((∃ e, firstError (bufferChecks (s.argU 0) (s.argU 1) (s.argU 2)) = some e ∧ execKwApply s = .next (s.raise e)) ∨
       (firstError (bufferChecks (s.argU 0) (s.argU 1) (s.argU 2)) = none ∧
        execKwApply s =
          .next ((s.setKwFilters r (s.loadSamples (s.argU 0) (s.argU 2))).storeSamples (s.argU 1)
            (kWeight r (s.loadSamples (s.argU 0) (s.argU 2)))).finish)) := by
  unfold execKwApply
  dsimp only
  cases rateOf (s.argU 3) with
  | none => exact .inl ⟨rfl, rfl⟩
  | some r =>
    refine .inr ⟨r, rfl, ?_⟩
    dsimp only
    cases firstError (bufferChecks (s.argU 0) (s.argU 1) (s.argU 2)) with
    | none => exact .inr ⟨rfl, rfl⟩
    | some e => exact .inl ⟨e, rfl, rfl⟩

/-- The channels of a multi-channel command, each the samples of its buffer (R87). -/
def State.channels (s : State) (c : Nat) : List (List B32) :=
  (List.range c).map fun k => s.loadSamples (channelBase (s.argU 0) (s.argU 1) k) (s.argU 2)

/-- The block powers LUFS_MEASURE computes for `c` channels (R225). -/
def State.blockPowers (s : State) (c : Nat) (r : KwRate) : List B64 :=
  (List.range (blockCount r (s.argU 2))).map (blockPower r ((s.channels c).map (kWeight r)))

/-- LUFS_MEASURE: too many channels, no channels, an unsupported rate, the first failing check, or the measurement. -/
theorem execLufsMeasure_cases (nch : BitVec 4) (s : State) :
    (Config.chMax < nch.toNat ∧ execLufsMeasure nch s = .next (s.raise .illcmd)) ∨
    (nch.toNat = 0 ∧ execLufsMeasure nch s = .next s.setLufsEmpty.finish) ∨
    (nch.toNat ≤ Config.chMax ∧ nch.toNat ≠ 0 ∧
      ((rateOf (s.argU 3) = none ∧ execLufsMeasure nch s = .next (s.raise .rate)) ∨
       ∃ r, rateOf (s.argU 3) = some r ∧
        ((∃ e, firstError (lufsChecks (s.argU 0) (s.argU 1) (s.argU 2) (s.argU 4) (blockCount r (s.argU 2)) nch.toNat) = some e ∧
          execLufsMeasure nch s = .next (s.raise e)) ∨
         (firstError (lufsChecks (s.argU 0) (s.argU 1) (s.argU 2) (s.argU 4) (blockCount r (s.argU 2)) nch.toNat) = none ∧
          execLufsMeasure nch s =
            .next (((s.setKwFilters r ((s.channels nch.toNat).getD (nch.toNat - 1) [])).storePowers (s.argU 4)
              (s.blockPowers nch.toNat r)).setLufs (blockCount r (s.argU 2)) (gate (s.blockPowers nch.toNat r))).finish)))) := by
  unfold execLufsMeasure
  dsimp only
  by_cases h8 : Config.chMax < nch.toNat
  · exact .inl ⟨h8, if_pos h8⟩
  · refine .inr ?_
    rw [if_neg h8]
    by_cases h0 : nch.toNat = 0
    · exact .inl ⟨h0, if_pos h0⟩
    · refine .inr ⟨by omega, h0, ?_⟩
      rw [if_neg h0]
      cases rateOf (s.argU 3) with
      | none => exact .inl ⟨rfl, rfl⟩
      | some r =>
        refine .inr ⟨r, rfl, ?_⟩
        dsimp only
        cases firstError (lufsChecks (s.argU 0) (s.argU 1) (s.argU 2) (s.argU 4) (blockCount r (s.argU 2)) nch.toNat) with
        | none => exact .inr ⟨rfl, rfl⟩
        | some e => exact .inl ⟨e, rfl, rfl⟩

/-- TP_MEASURE: too many channels, no channels, the first failing check, or the measurement. -/
theorem execTpMeasure_cases (nch : BitVec 4) (s : State) :
    (Config.chMax < nch.toNat ∧ execTpMeasure nch s = .next (s.raise .illcmd)) ∨
    (nch.toNat = 0 ∧ execTpMeasure nch s = .next (s.setRes 0 0).finish) ∨
    (nch.toNat ≤ Config.chMax ∧ nch.toNat ≠ 0 ∧
      ((∃ e, firstError (tpChecks (s.argU 0) (s.argU 1) (s.argU 2) nch.toNat) = some e ∧
        execTpMeasure nch s = .next (s.raise e)) ∨
       (firstError (tpChecks (s.argU 0) (s.argU 1) (s.argU 2) nch.toNat) = none ∧
        execTpMeasure nch s = .next (s.setRes 0 (truePeak ((s.channels nch.toNat).map (List.map widen)))).finish))) := by
  unfold execTpMeasure
  dsimp only
  by_cases h8 : Config.chMax < nch.toNat
  · exact .inl ⟨h8, if_pos h8⟩
  · refine .inr ?_
    rw [if_neg h8]
    by_cases h0 : nch.toNat = 0
    · exact .inl ⟨h0, if_pos h0⟩
    · refine .inr ⟨by omega, h0, ?_⟩
      rw [if_neg h0]
      cases firstError (tpChecks (s.argU 0) (s.argU 1) (s.argU 2) nch.toNat) with
      | none => refine .inr ⟨rfl, ?_⟩; simp [State.channels, Function.comp_def]
      | some e => exact .inl ⟨e, rfl, rfl⟩

/-- A command always completes, with an error or with success (R142). -/
theorem exec_completes (i : Instr) (s : State) : ∃ t, exec i s = .next t ∧ Completes s t := by
  cases i with
  | nop => exact ⟨_, rfl, by apply Completes.of_same <;> simp⟩
  | bqLoad slot =>
    rcases execBqLoad_cases slot s with ⟨-, h⟩ | ⟨k, -, h⟩
    · exact ⟨_, h, .error _⟩
    · exact ⟨_, h, by apply Completes.of_same <;> simp⟩
  | bqReset slot =>
    rcases execBqReset_cases slot s with ⟨-, h⟩ | ⟨k, -, h⟩
    · exact ⟨_, h, .error _⟩
    · exact ⟨_, h, by apply Completes.of_same <;> simp⟩
  | bqStep slot =>
    rcases execBqStep_cases slot s with ⟨-, h⟩ | ⟨k, -, h⟩
    · exact ⟨_, h, .error _⟩
    · exact ⟨_, h, by apply Completes.of_same <;> simp⟩
  | bqRun slot =>
    rcases execBqRun_cases slot s with ⟨-, h⟩ | ⟨k, -, ⟨e, -, h⟩ | ⟨-, h⟩⟩
    · exact ⟨_, h, .error _⟩
    · exact ⟨_, h, .error _⟩
    · exact ⟨_, h, by apply Completes.of_same <;> simp⟩
  | kwApply =>
    rcases execKwApply_cases s with ⟨-, h⟩ | ⟨r, -, ⟨e, -, h⟩ | ⟨-, h⟩⟩
    · exact ⟨_, h, .error _⟩
    · exact ⟨_, h, .error _⟩
    · exact ⟨_, h, by apply Completes.of_same <;> simp⟩
  | lufsMeasure nch =>
    rcases execLufsMeasure_cases nch s with ⟨-, h⟩ | ⟨-, h⟩ | ⟨-, -, ⟨-, h⟩ | ⟨r, -, ⟨e, -, h⟩ | ⟨-, h⟩⟩⟩
    · exact ⟨_, h, .error _⟩
    · exact ⟨_, h, by apply Completes.of_same <;> simp⟩
    · exact ⟨_, h, .error _⟩
    · exact ⟨_, h, .error _⟩
    · exact ⟨_, h, by apply Completes.of_same <;> simp⟩
  | tpMeasure nch =>
    rcases execTpMeasure_cases nch s with ⟨-, h⟩ | ⟨-, h⟩ | ⟨-, -, ⟨e, -, h⟩ | ⟨-, h⟩⟩
    · exact ⟨_, h, .error _⟩
    · exact ⟨_, h, by apply Completes.of_same <;> simp⟩
    · exact ⟨_, h, .error _⟩
    · exact ⟨_, h, by apply Completes.of_same <;> simp⟩

/-! ### Host accesses and steps -/

/-- A host access inside its window always gives a next state; outside, it always faults. -/
theorem hostAccess_cases (s : State) (a : Access) :
    (∃ t, hostAccess s a = .next t) ∨ ∃ win off, ¬ off < Window.bytes win ∧ hostAccess s a = .fault (.outsideWindow win off) := by
  cases a with
  | read win w off =>
    cases win <;> simp only [hostAccess] <;> split
    · exact .inl ⟨_, rfl⟩
    · exact .inr ⟨.regs, off, ‹¬ _›, rfl⟩
    · exact .inl ⟨_, rfl⟩
    · exact .inr ⟨.dmem, off, ‹¬ _›, rfl⟩
  | write win w off v =>
    cases win <;> simp only [hostAccess] <;> split
    · exact .inl ⟨_, rfl⟩
    · exact .inr ⟨.regs, off, ‹¬ _›, rfl⟩
    · exact .inl ⟨_, rfl⟩
    · exact .inr ⟨.dmem, off, ‹¬ _›, rfl⟩

/-- What an engine turn does: nothing when idle, else a completion (R142). -/
theorem engineStep_cases (s : State) :
    (s.status.busy = false ∧ engineStep s = .next s) ∨
    (s.status.busy = true ∧
      ((∃ i, decode s.cmdl = .ok i ∧ engineStep s = exec i s) ∨
       (∃ e, decode s.cmdl = .error e ∧ engineStep s = .next (s.raise .illcmd)))) := by
  unfold engineStep
  cases hb : s.status.busy with
  | false => exact .inl ⟨rfl, rfl⟩
  | true =>
    refine .inr ⟨rfl, ?_⟩
    simp only [if_true]
    cases hd : decode s.cmdl with
    | ok i => exact .inl ⟨i, rfl, rfl⟩
    | error e => exact .inr ⟨e, rfl, rfl⟩

/-- What a step does, by the turn it takes. -/
theorem step_cases (s : State) :
    (s.pending = [] ∧ step s = engineStep s) ∨
    ∃ t rest, s.pending = t :: rest ∧
      ((t = .engine ∧ step s = engineStep { s with pending := rest }) ∨
       (∃ a, t = .host a ∧ step s = hostAccess { s with pending := rest } a) ∨
       (t = .hardReset ∧ step s = .next ({ s with pending := rest } : State).hardReset)) := by
  unfold step
  cases s.pending with
  | nil => exact .inl ⟨rfl, rfl⟩
  | cons t rest =>
    refine .inr ⟨t, rest, rfl, ?_⟩
    cases t with
    | host a => exact .inr (.inl ⟨a, rfl, rfl⟩)
    | engine => exact .inl ⟨rfl, rfl⟩
    | hardReset => exact .inr (.inr ⟨rfl, rfl⟩)

end Sys2Proof.Machine
end

