-- ==== Sys2Proof/Laws/PerInstr.lean ====
section
/-!
SUPPORT. A per-instruction family: what the fields of each command's word are (spec 30_encoding.md R110, R112).
-/

namespace Sys2Proof.Laws.EncodedFields

/-- The opcode byte of R112. -/
def opcode : Instr → BitVec 8
  | .nop => 0x00
  | .bqLoad _ => 0x10
  | .bqReset _ => 0x11
  | .bqStep _ => 0x12
  | .bqRun _ => 0x13
  | .kwApply => 0x20
  | .lufsMeasure _ => 0x30
  | .tpMeasure _ => 0x40

/-- The SLOT field of R112: the slot number, or 0 for a command that does not read it. -/
def slotField : Instr → BitVec 4
  | .bqLoad slot => slot
  | .bqReset slot => slot
  | .bqStep slot => slot
  | .bqRun slot => slot
  | .nop => 0
  | .kwApply => 0
  | .lufsMeasure _ => 0
  | .tpMeasure _ => 0

/-- The NCH field of R112: the channel count, or 0 for a command that does not read it. -/
def nchField : Instr → BitVec 4
  | .lufsMeasure nch => nch
  | .tpMeasure nch => nch
  | .nop => 0
  | .bqLoad _ => 0
  | .bqReset _ => 0
  | .bqStep _ => 0
  | .bqRun _ => 0
  | .kwApply => 0

/-- The CMD value of `i` has the opcode of R112, its operand in its field, and 0 everywhere else. -/
def Statement (i : Instr) : Prop :=
  opcOf (cmdValue i) = opcode i ∧ slotOf (cmdValue i) = slotField i ∧ nchOf (cmdValue i) = nchField i ∧
    rsvOf (cmdValue i) = 0

theorem nop : Statement .nop := by unfold Statement; decide

theorem bqLoad (slot : BitVec 4) : Statement (.bqLoad slot) := by revert slot; unfold Statement; decide

theorem bqReset (slot : BitVec 4) : Statement (.bqReset slot) := by revert slot; unfold Statement; decide

theorem bqStep (slot : BitVec 4) : Statement (.bqStep slot) := by revert slot; unfold Statement; decide

theorem bqRun (slot : BitVec 4) : Statement (.bqRun slot) := by revert slot; unfold Statement; decide

theorem kwApply : Statement .kwApply := by unfold Statement; decide

theorem lufsMeasure (nch : BitVec 4) : Statement (.lufsMeasure nch) := by revert nch; unfold Statement; decide

theorem tpMeasure (nch : BitVec 4) : Statement (.tpMeasure nch) := by revert nch; unfold Statement; decide

end Sys2Proof.Laws.EncodedFields
end

