-- ==== Sys2Proof/Tests/Slice0.lean ====
section
/-!
SUPPORT. The model's own tests. The expected values are the spec's (30_encoding.md, 95_test_vectors.md); a `witness_`
theorem shows a concrete state and operands that meet the hypotheses of the statement it is named after.
-/

namespace Sys2Proof.Machine.Tests

/-! ### Well-formedness, each check with an ill-formed term it refuses -/

theorem test_wellFormed_slot_limit :
    (Instr.bqLoad 3).wellFormed = true ∧ (Instr.bqLoad 4).wellFormed = false ∧
    (Instr.bqReset 4).wellFormed = false ∧ (Instr.bqStep 15).wellFormed = false ∧ (Instr.bqRun 4).wellFormed = false := by
  decide

theorem test_wellFormed_channel_limit :
    (Instr.lufsMeasure 8).wellFormed = true ∧ (Instr.lufsMeasure 9).wellFormed = false ∧
    (Instr.tpMeasure 8).wellFormed = true ∧ (Instr.tpMeasure 9).wellFormed = false := by
  decide

/-! ### Decoding: words written bit by bit from R110 and R112 (RSV, NCH, SLOT, OPC) -/

theorem test_decode_nop : decode 0b0000000000000000_0000_0000_00000000 = .ok .nop := by decide
theorem test_decode_bqLoad : decode 0b0000000000000000_0000_0011_00010000 = .ok (.bqLoad 3) := by decide
theorem test_decode_bqReset : decode 0b0000000000000000_0000_0001_00010001 = .ok (.bqReset 1) := by decide
theorem test_decode_bqStep : decode 0b0000000000000000_0000_0010_00010010 = .ok (.bqStep 2) := by decide
theorem test_decode_bqRun : decode 0b0000000000000000_0000_0010_00010011 = .ok (.bqRun 2) := by decide
theorem test_decode_kwApply : decode 0b0000000000000000_0000_0000_00100000 = .ok .kwApply := by decide
theorem test_decode_lufsMeasure : decode 0b0000000000000000_0010_0000_00110000 = .ok (.lufsMeasure 2) := by decide
theorem test_decode_tpMeasure : decode 0b0000000000000000_1000_0000_01000000 = .ok (.tpMeasure 8) := by decide

/-- V10, V11a to V11f: every part of R115 refuses by name. -/
theorem test_decode_refusals :
    decode 0x100000000 = .error .reservedBits ∧ decode 0x00010000 = .error .reservedBits ∧
    decode 0x00000050 = .error .reservedOpcode ∧ decode 0x00000100 = .error .slotNotZero ∧
    decode 0x00001020 = .error .nchNotZero ∧ decode 0x00000413 = .error .slotTooBig ∧
    decode 0x00009030 = .error .nchTooBig := by
  decide

/-! ### Arithmetic -/

/-- V19: the smallest subnormal halves to +0.0 (tie to even), twice it halves to it; 0.1 + 0.2 by hand. -/
theorem test_rounding :
    fmul 0x3FE0000000000000 1 = 0 ∧ fmul 0x3FE0000000000000 2 = 1 ∧
    fadd 0x3FB999999999999A 0x3FC999999999999A = 0x3FD3333333333334 ∧
    round32 0x3FB999999999999A = 0x3DCCCCCD := by
  decide +kernel

/-- V18, V31, V25: overflow to infinity, zero times infinity, NaN widened to the canonical NaN. -/
theorem test_special_values :
    fmul 0x7FE1CCF385EBC8A0 0x4024000000000000 = 0x7FF0000000000000 ∧ fmul 0 0x7FF0000000000000 = nan64 ∧
    widen 0x7FA00001 = nan64 ∧ round32 nan64 = nan32 := by
  decide +kernel

/-- R27: an exact power of ten, zero; and SQ1 of 95_test_vectors.md: with the nearest logarithm, G = 0x3FD6AE2B846C7F5A
gives the loudness 0xC014C9035F43BB15. -/
theorem test_log10 :
    fLog10 0x4059000000000000 = 0x4000000000000000 ∧ fLog10 0 = 0xFFF0000000000000 ∧
    fadd cLofs (fmul (natToB64 10) (log10Nearest (log10Bounds 0x3FD6AE2B846C7F5A).1)) = 0xC014C9035F43BB15 := by
  decide +kernel

/-! ### Commands, on small states -/

/-- A state in which the CMD value `v` with latches `a` is in flight. -/
def inFlight (v : B64) (a : List B64) : State :=
  { State.reset with
    cmdl := v
    argl := #v[a.getD 0 0, a.getD 1 0, a.getD 2 0, a.getD 3 0, a.getD 4 0, a.getD 5 0, a.getD 6 0, a.getD 7 0]
    status := { Status.zero with busy := true } }

/-- The state after a step that answers a next state. -/
def after (o : Host.Outcome State Fault Refusal) : State :=
  match o with
  | .next t => t
  | .fault _ => State.reset
  | .refused _ => State.reset

/-- V9: NOP leaves STATUS = 0x0000_0002. -/
theorem test_nop : (after (step (inFlight 0 []))).status.word = 0x2 := by decide +kernel

/-- V11a: BQ_RUN 4 leaves STATUS = 0x0013_0106. -/
theorem test_illcmd : (after (step (inFlight 0x413 []))).status.word = 0x00130106 := by decide +kernel

/-- V14: b = [1, 2, 3], a = [2, 0, 0] gives B0 = 0.5, B1 = 1.0, B2 = 1.5, A1 = A2 = +0.0. -/
theorem test_bqLoad :
    (after (step (inFlight 0x210 [0x3FF0000000000000, 0x4000000000000000, 0x4008000000000000, 0x4000000000000000]))).slots[2] =
      { Biquad.unity with b0 := 0x3FE0000000000000, b1 := 0x3FF0000000000000, b2 := 0x3FF8000000000000 } := by
  decide +kernel

/-- V13: BQ_RESET zeroes the state and keeps the coefficients. -/
theorem test_bqReset :
    (after (step { inFlight 0x011 [] with
      slots := #v[{ Biquad.unity with x1 := 5, y2 := 7, a1 := 9 }, Biquad.unity, Biquad.unity, Biquad.unity] })).slots[0] =
      { Biquad.unity with a1 := 9 } := by
  decide +kernel

/-- V12: on the unity slot 0.5 gives 0.5, and X1 = Y1 = 0.5. -/
theorem test_bqStep :
    (after (step (inFlight 0x012 [0x3FE0000000000000]))).res[0] = 0x3FE0000000000000 ∧
    (after (step (inFlight 0x012 [0x3FE0000000000000]))).slots[0] =
      { Biquad.unity with x1 := 0x3FE0000000000000, y1 := 0x3FE0000000000000 } := by
  decide +kernel

/-- V21: a signalling NaN gives the canonical NaN, and X1 keeps the input's own pattern. -/
theorem test_bqStep_nan :
    (after (step (inFlight 0x012 [0x7FF4000000000001]))).res[0] = 0x7FF8000000000000 ∧
    (after (step (inFlight 0x012 [0x7FF4000000000001]))).slots[0].x1 = 0x7FF4000000000001 := by
  decide +kernel

/-- DMEM with the two samples 1.0 and −1.0 at offsets 0 and 4 (R82). -/
def twoSamples : Dmem := Dmem.writeLE [] 0 8 0xBF8000003F800000

/-- V24: with B0 = 1e39 the stored outputs are ±∞ and Y1 stays finite. -/
theorem test_bqRun_overflow :
    let t := after (step { inFlight 0x013 [0, 0x100, 2] with
      dmem := twoSamples
      slots := #v[{ Biquad.unity with b0 := 0x48078287F49C4A1D }, Biquad.unity, Biquad.unity, Biquad.unity] })
    t.loadS 0x100 = 0x7F800000 ∧ t.loadS 0x104 = 0xFF800000 ∧ t.slots[0].y1 = 0xC8078287F49C4A1D := by
  decide +kernel

/-- V28: src = 0, dst = 4, N = 4 is OVERLAP; the slot is unchanged. -/
theorem test_bqRun_overlap :
    (after (step (inFlight 0x013 [0, 4, 4]))).status.word = 0x00130506 ∧
    (after (step (inFlight 0x013 [0, 4, 4]))).slots[0] = Biquad.unity := by
  decide +kernel

/-- 95_test_vectors.md 2.3: the impulse response at 48 000 Hz begins 0x3FC47EF9, 0xBDE48F51. -/
theorem test_kwApply : kWeight .hz48000 [0x3F800000, 0] = [0x3FC47EF9, 0xBDE48F51] := by decide +kernel

/-- V35: the rate is checked first. -/
theorem test_kwApply_rate : (after (step (inFlight 0x020 [1, 0, 0, 48001]))).status.word = 0x00200206 := by decide +kernel

/-- V38: no channels give −∞ whatever the operands. -/
theorem test_lufs_no_channels :
    (after (step (inFlight 0x030 [2, 1, 5, 0]))).res = #v[0xFFF0000000000000, 0, 0, 0, 0, 0, 0, 0] ∧
    (after (step (inFlight 0x030 [2, 1, 5, 0]))).status.word = 0x00300002 := by
  decide +kernel

/-- Gating vectors G1, G3 and G7 of 95_test_vectors.md. -/
theorem test_gate :
    gate [0x3FF0000000000000, 0x3FA999999999999A, 0x3E45798EE2308C3A] =
      { nabs := 2, m1 := 0x3FE0CCCCCCCCCCCD, nrel := 1, g := 0x3FF0000000000000 } ∧
    gate [cTabs, 0x3E8F791EC6E1D5B7] = { nabs := 1, m1 := 0x3E8F791EC6E1D5B7, nrel := 1, g := 0x3E8F791EC6E1D5B7 } ∧
    gate [nan64, 0x3FF0000000000000] = { nabs := 1, m1 := 0x3FF0000000000000, nrel := 1, g := 0x3FF0000000000000 } := by
  decide +kernel

/-- V56: twenty samples 0.25 peak at 0.25 + 2 ulp. -/
theorem test_truePeak : channelPeak (List.replicate 20 0x3FD0000000000000) = 0x3FD0000000000002 := by decide +kernel

/-- V65: an empty region is in range at any base; V63: a misaligned base is ALIGN. -/
theorem test_tpMeasure_checks :
    (after (step (inFlight 0x1040 [0xFFFFFFFFFFFFFFFC, 0, 0, 0]))).status.word = 0x00400002 ∧
    (after (step (inFlight 0x1040 [2, 0, 1, 0]))).status.word = 0x00400306 := by
  decide +kernel

/-! ### Host accesses -/

/-- The state after one host access. -/
def afterHost (s : State) (a : Access) : State := after (step { s with pending := [.host a] })

/-- V1, V4, V6, V7: ID, a reserved offset, an absent slot, C_LOFS and a KWC word. -/
theorem test_register_reads :
    (afterHost State.reset (.read .regs .w8 0x000)).readData = some 0x4E45495201000408 ∧
    (afterHost State.reset (.read .regs .w8 0x0A0)).readData = some 0 ∧
    (afterHost State.reset (.read .regs .w8 0x300)).readData = some 0 ∧
    (afterHost State.reset (.read .regs .w8 0xEB0)).readData = some 0xBFE61CAC083126E9 ∧
    (afterHost State.reset (.read .regs .w8 0xE58)).readData = some 0xC0053534FFEC4872 := by
  decide +kernel

/-- R82: a little-endian 8-byte write, read back in halves. -/
theorem test_dmem_little_endian :
    (afterHost State.reset (.write .dmem .w8 0x10 0xBF8000003F800000)).loadS 0x10 = 0x3F800000 ∧
    (afterHost State.reset (.write .dmem .w8 0x10 0xBF8000003F800000)).loadS 0x14 = 0xBF800000 := by
  decide +kernel

/-- R90: a DMEM write while BUSY = 1 is dropped and sets COLL. -/
theorem test_collision :
    (afterHost (inFlight 0 []) (.write .dmem .w4 0 1)).dmem = [] ∧
    (afterHost (inFlight 0 []) (.write .dmem .w4 0 1)).status.coll = true := by
  decide +kernel

/-- The table's word of BQ_STEP 1 runs as the next step after reset. -/
theorem test_withFetchWord : (after (step (State.reset.withFetchWord 32 0x112))).status.word = 0x00120002 := by decide +kernel

/-! ### Witnesses: for each statement with hypotheses, concrete values that meet all of them

Where a statement has several clauses, there is a witness for each, at boundary values. A hypothesis that an instruction
completes is met through `exec_next`, and one that it succeeds through the checks alone where the run is long. -/

theorem exec_next (i : Instr) (s : State) : exec i s = .next (after (exec i s)) := by
  obtain ⟨t, h, -⟩ := exec_completes i s
  rw [h]; rfl

/-- The idle state after reset with the access `a` pending. -/
def asked (a : Access) : State := { State.reset with pending := [.host a] }

/-- The same while a command is in flight. -/
def askedBusy (a : Access) : State := { inFlight 0 [] with pending := [.host a] }

theorem witness_DecodeOfEncode :
    (Instr.bqRun 3).wellFormed = true ∧ (Instr.lufsMeasure 8).wellFormed = true ∧ (Instr.nop).wellFormed = true := by
  decide

theorem witness_EncodeOfDecode : decode 0x313 = .ok (.bqRun 3) ∧ decode 0x8030 = .ok (.lufsMeasure 8) := by decide

/-- One value for each of the six conditions, at its boundary, each in flight with the engine next. -/
theorem witness_IllegalValuesComplete :
    ∀ ve ∈ ([(0x10000, .reservedBits), (0x50, .reservedOpcode), (0x100, .slotNotZero), (0x1010, .nchNotZero),
      (0x410, .slotTooBig), (0x9040, .nchTooBig)] : List (B64 × DecodeError)),
      let s := { inFlight ve.1 [] with pending := [.engine] }
      s.status.busy = true ∧ decode s.cmdl = .error ve.2 ∧ s.pending = .engine :: [] := by
  decide

theorem witness_StepRunsDecodedCommand :
    (inFlight 0x112 []).status.busy = true ∧ decode (inFlight 0x112 []).cmdl = .ok (.bqStep 1) ∧
    (inFlight 0x112 []).pending = [] ∧ ({ inFlight 0x112 [] with pending := [.engine] } : State).pending = .engine :: [] := by
  decide

/-- Idle; in flight and successful; in flight and failing. -/
theorem witness_EngineStepCompletes :
    ({ State.reset with pending := [.engine] } : State).status.busy = false ∧
    (inFlight 0x112 []).status.busy = true ∧ (after (step (inFlight 0x112 []))).status.errcode = 0x00 ∧
    (inFlight 0x020 []).status.busy = true ∧ (after (step (inFlight 0x020 []))).status.errcode ≠ 0x00 := by
  decide +kernel

theorem witness_ErrorCodesByCommand :
    (Instr.kwApply).wellFormed = true ∧
    exec .kwApply (inFlight 0x020 []) = .next (after (exec .kwApply (inFlight 0x020 []))) :=
  ⟨rfl, exec_next _ _⟩

theorem witness_AcceptLatchesCommand :
    (asked (.write .regs .w8 0x018 0x112)).pending = .host (.write .regs .w8 0x018 0x112) :: [] ∧
    (asked (.write .regs .w8 0x018 0x112)).status.busy = false := by
  decide

theorem witness_OverrunKeepsCommand :
    (askedBusy (.write .regs .w8 0x018 0)).pending = .host (.write .regs .w8 0x018 0) :: [] ∧
    (askedBusy (.write .regs .w8 0x018 0)).status.busy = true := by
  decide

theorem witness_StatusWriteOneToClear :
    (asked (.write .regs .w8 0x010 0x1E)).pending = .host (.write .regs .w8 0x010 0x1E) :: [] := rfl

theorem witness_CtrlWriteResetsOrEnables :
    (asked (.write .regs .w8 0x008 3)).pending = .host (.write .regs .w8 0x008 3) :: [] ∧ (3 : B64).getLsbD 1 = true ∧
    (asked (.write .regs .w8 0x008 1)).pending = .host (.write .regs .w8 0x008 1) :: [] ∧ (1 : B64).getLsbD 1 = false := by
  decide

theorem witness_ResetAbortsCommand : State.reset.status.busy = false ∧ (2 : B64).getLsbD 1 = true := by decide

theorem witness_HardResetResult :
    ({ inFlight 0 [] with pending := [.hardReset] } : State).pending = .hardReset :: [] := rfl

theorem witness_InterruptFollowsDone :
    ({ inFlight 0 [] with pending := [.engine], ie := true } : State).pending = .engine :: [] ∧
    ({ inFlight 0 [] with pending := [.engine], ie := true } : State).status.busy = true ∧ (2 : B64).getLsbD 1 = true ∧
    State.reset.status.busy = false ∧ ({ State.reset with pending := [.hardReset] } : State).pending = .hardReset :: [] ∧
    (1 : B64).getLsbD 1 = false := by
  decide

/-- The last clause of InterruptFollowsDone: a colliding DMEM write, an overrun, and a STATUS write that spares DONE. -/
theorem witness_InterruptFollowsDone_others :
    (Access.write .dmem .w8 0xFFFFF8 1).inside ∧
    ((Access.write .regs .w8 0x018 7).inside ∧ ∀ v, Access.write .regs .w8 0x018 7 ≠ .write .regs .w8 0x008 v) ∧
    (inFlight 0 []).status.busy = true ∧
    ((Access.write .regs .w8 0x010 4).inside ∧
      ∀ v, Access.write .regs .w8 0x010 4 = .write .regs .w8 0x010 v → v.getLsbD 1 = false) := by
  refine ⟨?_, ⟨?_, fun v h => ?_⟩, rfl, ?_, fun v h => ?_⟩
  · show (0xFFFFF8 : Nat) < 16777216; decide
  · show (0x018 : Nat) < 4096; decide
  · injection h with _ _ h; exact absurd h (by decide)
  · show (0x010 : Nat) < 4096; decide
  · injection h with _ _ _ h; subst h; decide

/-- The first and the last offset of each range, and both kinds of absent slot register. -/
theorem witness_ReservedOffsetsAreInert :
    (∀ off ∈ [0x0A0, 0x0F8, 0x300, 0x8F8, 0x148, 0x2F8, 0x900, 0xBF8, 0xD80, 0xDF8, 0xEB8, 0xFF8],
      off % 8 = 0 ∧ off < Config.regBytes ∧
      (0x0A0 ≤ off ∧ off < 0x100 ∨
        0x100 ≤ off ∧ off < 0x900 ∧ (Config.nbq ≤ (off - 0x100) / 0x80 ∨ 9 ≤ (off - 0x100) % 0x80 / 8) ∨
        0x900 ≤ off ∧ off < 0xC00 ∨ 0xD80 ≤ off ∧ off < 0xE00 ∨ 0xEB8 ≤ off)) ∧
    ∀ off ∈ [0x000, 0x060, 0xFF8], off % 8 = 0 ∧ off < Config.regBytes ∧ (off = 0x000 ∨ 0x060 ≤ off) := by
  decide

theorem witness_OtherRegisterAccessIsRefused :
    0 < Config.regBytes ∧ Width.w4 ≠ .w8 ∧ 0xFFC < Config.regBytes ∧ 0xFFC % 8 ≠ 0 ∧ 0xFF8 < Config.regBytes ∧
    0xFF8 % 8 = 0 := by
  decide

/-- Aligned, misaligned and outside, at the ends of DMEM. -/
theorem witness_HostDmemAccess :
    State.reset.status.busy = false ∧ (0xFFFFF8 < Config.dmemBytes ∧ 0xFFFFF8 % Width.w8.bytes = 0) ∧
    (0xFFFFFF < Config.dmemBytes ∧ 0xFFFFFF % Width.w2.bytes ≠ 0) ∧ Config.dmemBytes ≤ 0x1000000 := by
  decide

theorem witness_CollisionWhileBusy :
    (inFlight 0 []).status.busy = true ∧ 0xFFFFFF < Config.dmemBytes ∧ 0xFFF < Config.regBytes := by decide

theorem test_inv_inFlight : (inFlight 0x112 []).Inv := ⟨by decide, rfl, rfl, fun _ => rfl, by decide⟩

theorem witness_StepKeepsInvariant :
    (inFlight 0x020 []).Inv ∧ step (inFlight 0x020 []) = .next (after (step (inFlight 0x020 []))) :=
  ⟨⟨by decide, rfl, rfl, fun _ => rfl, by decide⟩, rfl⟩

theorem witness_SafeScriptNeverStops :
    ∀ t ∈ ({ State.reset with pending := [.host (.write .regs .w8 0x018 0), .engine, .hardReset,
      .host (.read .dmem .w1 0xFFFFFF)] } : State).pending, t.safe := by
  simp [Turn.safe, Access.inside, Access.offset, Access.window, Window.bytes, Config.regBytes, Config.dmemBytes]

theorem witness_CommandEventuallyCompletes :
    let s := askedBusy (.read .regs .w8 0x010)
    s.status.busy = true ∧ (∀ t ∈ s.pending, t.isHostInside) ∧ ∀ a, .host a ∈ s.pending → ¬ a.isSoftReset := by
  refine ⟨rfl, ?_, ?_⟩
  · simp [askedBusy, Turn.isHostInside, Access.inside, Access.offset, Access.window, Window.bytes, Config.regBytes]
  · intro a h
    have : a = .read .regs .w8 0x010 := by simpa [askedBusy] using h
    subst this
    exact fun h => h

theorem witness_HostCannotChangeSnapshot :
    (inFlight 0 []).status.busy = true ∧ ¬ (Access.write .dmem .w8 0 1).isSoftReset ∧
    hostAccess (inFlight 0 []) (.write .dmem .w8 0 1) = .next (inFlight 0 []).collide := by
  refine ⟨rfl, fun h => h, rfl⟩

theorem witness_HiddenStateNeverObserved :
    State.reset.hiddenEq { State.reset with cmdl := 0x112, kwpre := { Biquad.unity with x1 := 7 } } ∧
    (inFlight 0x112 []).hiddenEq { inFlight 0x112 [] with kwrlb := { Biquad.unity with y2 := 7 } } :=
  ⟨⟨rfl, by simp [State.reset, Status.zero]⟩, ⟨rfl, fun _ => ⟨rfl, rfl⟩⟩⟩

theorem witness_SlotsAreIndependent :
    namedSlot (.bqRun 0) ≠ some (3 : Fin Config.nbq).val ∧ namedSlot .kwApply ≠ some (0 : Fin Config.nbq).val := by decide

theorem witness_NopResult : (0 : B64).extractLsb' 0 8 = 0x00 ∧ (0x100 : B64).extractLsb' 0 8 = 0x00 := by decide

/-- The last slot and the first absent one, for BQ_LOAD, BQ_RESET and BQ_STEP. -/
theorem witness_BqLoadResult : (3 : BitVec 4).toNat < Config.nbq ∧ Config.nbq ≤ (4 : BitVec 4).toNat := by decide
theorem witness_BqResetResult : (3 : BitVec 4).toNat < Config.nbq ∧ Config.nbq ≤ (4 : BitVec 4).toNat := by decide
theorem witness_BqStepResult : (3 : BitVec 4).toNat < Config.nbq ∧ Config.nbq ≤ (4 : BitVec 4).toNat := by decide

theorem test_finite_one : finite64 0x3FF0000000000000 := by unfold finite64; decide
theorem test_val_one : val64 0x3FF0000000000000 = 1 := by simp [val64]; norm_num

theorem test_val_one_ne : val64 0x3FF0000000000000 ≠ 0 := by rw [test_val_one]; norm_num

theorem witness_BqLoadCornerQuotients :
    finite64 0x3FF0000000000000 ∧ val64 0x3FF0000000000000 ≠ 0 ∧ ¬ nanPattern64 0x3FF0000000000000 ∧
    nanPattern64 0x7FF4000000000001 := by
  refine ⟨test_finite_one, test_val_one_ne, ?_, ?_⟩ <;> unfold nanPattern64 <;> decide

/-- Two samples in place, two samples ending at the end of DMEM, and none. -/
theorem witness_BqRunResult :
    (3 : BitVec 4).toNat < Config.nbq ∧
    ((inFlight 0x313 [0, 0, 2]).argl = #v[0, 0, 2, 0, 0, 0, 0, 0] ∧ 0 % 4 = 0 ∧ 0 + 4 * 2 ≤ Config.dmemBytes) ∧
    ((inFlight 0x313 [0, 0xFFFFF8, 2]).argl = #v[0, 0xFFFFF8, 2, 0, 0, 0, 0, 0] ∧ 0xFFFFF8 % 4 = 0 ∧
      0xFFFFF8 + 4 * 2 ≤ Config.dmemBytes ∧ 0 + 4 * 2 ≤ 0xFFFFF8) ∧
    ((inFlight 0x313 [0xFFFFFFFFFFFFFFFC, 4, 0]).argl = #v[0xFFFFFFFFFFFFFFFC, 4, 0, 0, 0, 0, 0, 0] ∧
      0xFFFFFFFFFFFFFFFC % 4 = 0 ∧ 4 % 4 = 0) :=
  ⟨by decide, ⟨rfl, by decide⟩, ⟨rfl, by decide⟩, rfl, by decide⟩

/-- The five branches of BqRunErrors: a slot too many, a misaligned base, one sample past the end, an overlap by one
sample, and the two that touch. -/
theorem witness_BqRunErrors :
    Config.nbq ≤ (4 : BitVec 4).toNat ∧ ¬ Config.nbq ≤ (3 : BitVec 4).toNat ∧
    (after (exec (.bqRun 4) (inFlight 0x413 [2, 0, 1]))).status.errcode = 0x01 ∧
    (after (exec (.bqRun 3) (inFlight 0x313 [2, 0, 1]))).status.errcode = 0x03 ∧
    (after (exec (.bqRun 3) (inFlight 0x313 [0, 0xFFFFF8, 3]))).status.errcode = 0x04 ∧
    (after (exec (.bqRun 3) (inFlight 0x313 [0, 4, 2]))).status.errcode = 0x05 ∧
    (after (exec (.bqRun 3) { inFlight 0x313 [0, 8, 2] with dmem := twoSamples })).status.errcode = 0x00 := by
  decide +kernel

/-- BQ_RUN 3 on two samples from 0, stored at 8. -/
def ranTwo : State := { inFlight 0x313 [0, 8, 2] with dmem := twoSamples }

theorem witness_BqRunEqualsSteps :
    exec (.bqRun 3) ranTwo = .next (after (exec (.bqRun 3) ranTwo)) ∧
    (after (exec (.bqRun 3) ranTwo)).status.errcode = 0x00 :=
  ⟨exec_next _ _, by decide +kernel⟩

theorem witness_BqRunsConcatenate :
    let l := (((Vector.replicate 8 (0 : B64)).set 0 (BitVec.ofNat 64 0)).set 1 (BitVec.ofNat 64 8)).set 2 (BitVec.ofNat 64 (1 + 1))
    exec (.bqRun 3) { ranTwo with argl := l } = .next (after (exec (.bqRun 3) { ranTwo with argl := l })) ∧
    (after (exec (.bqRun 3) { ranTwo with argl := l })).status.errcode = 0x00 ∧
    0 < 2 ^ 64 ∧ 8 < 2 ^ 64 ∧ 1 + 1 < 2 ^ 64 ∧ 0 + 4 * 1 < 2 ^ 64 ∧ 8 + 4 * 1 < 2 ^ 64 :=
  ⟨exec_next _ _, by decide +kernel, by decide⟩

theorem witness_UnityBiquadIsIdentity :
    (3 : BitVec 4).toNat < Config.nbq ∧ (inFlight 0x312 [0x3FF0000000000000]).slots[3] = Biquad.unity ∧
    finite64 0 ∧ finite64 (inFlight 0x312 [0x3FF0000000000000]).argl[0] :=
  ⟨by decide, rfl, by unfold finite64; decide, test_finite_one⟩

/-- Both rates, two samples ending at the end of DMEM. -/
theorem witness_KwApplyResult :
    ∀ a ∈ ([(48000, .hz48000), (44100, .hz44100)] : List (B64 × KwRate)),
      let s := inFlight 0x020 [0, 0xFFFFF8, 2, a.1]
      let src := s.argl[0].toNat
      let dst := s.argl[1].toNat
      let n := s.argl[2].toNat
      s.argl[3].toNat = (match a.2 with | .hz48000 => 48000 | .hz44100 => 44100) ∧ src % 4 = 0 ∧ dst % 4 = 0 ∧
      (src + 4 * n ≤ Config.dmemBytes ∧ dst + 4 * n ≤ Config.dmemBytes) ∧ src + 4 * n ≤ dst := by
  decide

/-- The five branches of KwApplyErrors. -/
theorem witness_KwApplyErrors :
    (after (exec .kwApply (inFlight 0x020 [2, 0, 1, 48001]))).status.errcode = 0x02 ∧
    (after (exec .kwApply (inFlight 0x020 [0, 2, 1, 48000]))).status.errcode = 0x03 ∧
    (after (exec .kwApply (inFlight 0x020 [0xFFFFF8, 0, 3, 44100]))).status.errcode = 0x04 ∧
    (after (exec .kwApply (inFlight 0x020 [4, 0, 2, 44100]))).status.errcode = 0x05 ∧
    (after (exec .kwApply { inFlight 0x020 [0, 8, 2, 44100] with dmem := twoSamples })).status.errcode = 0x00 := by
  decide +kernel

/-- A NaN sample followed by 1.0, K-weighted in place. -/
def kwOfNaN : State := { inFlight 0x020 [0, 0, 2, 48000] with dmem := Dmem.writeLE [] 0 8 0x3F8000007F800001 }

theorem witness_KwNaNSpreads :
    exec .kwApply kwOfNaN = .next (after (exec .kwApply kwOfNaN)) ∧
    (after (exec .kwApply kwOfNaN)).status.errcode = 0x00 ∧ 0 < 2 ∧ nanPattern32 (kwOfNaN.loadS (0 + 4 * 0)) :=
  ⟨exec_next _ _, by decide +kernel, by decide, by unfold nanPattern32; decide⟩

/-- One block exactly at 48 000 Hz with its power right after the samples, two channels over one buffer; and no block. -/
theorem witness_LufsResult :
    ((2 : BitVec 4) ≠ 0 ∧ (2 : BitVec 4).toNat ≤ Config.chMax) ∧
    ((inFlight 0x2030 [0, 0, 19200, 48000, 76800]).argl = #v[0, 0, 19200, 48000, 76800, 0, 0, 0] ∧
      (∀ j, j < 1 ↔ j * hopH .hz48000 + lengthB .hz48000 ≤ 19200) ∧ 76800 % 8 = 0 ∧
      76800 + 8 * 1 ≤ Config.dmemBytes ∧ ∀ c, c < (2 : BitVec 4).toNat → 0 + c * 0 + 4 * 19200 ≤ 76800) ∧
    ((inFlight 0x2030 [0, 0, 19199, 48000, 76800]).argl = #v[0, 0, 19199, 48000, 76800, 0, 0, 0] ∧
      (∀ j, j < 0 ↔ j * hopH .hz48000 + lengthB .hz48000 ≤ 19199) ∧
      ∀ c, c < (2 : BitVec 4).toNat → 0 + c * 0 + 4 * 19199 ≤ Config.dmemBytes) := by
  refine ⟨by decide, ⟨rfl, fun j => ?_, by decide, by decide, by decide⟩, rfl, fun j => ?_, by decide⟩ <;>
    simp only [hopH, lengthB] <;> omega

/-- LUFS_MEASURE succeeds as soon as its checks pass. -/
theorem lufs_success {nch : BitVec 4} {s : State} {r : KwRate} (h8 : nch.toNat ≤ Config.chMax) (h0 : nch.toNat ≠ 0)
    (hr : rateOf (s.argU 3) = some r)
    (hc : firstError (lufsChecks (s.argU 0) (s.argU 1) (s.argU 2) (s.argU 4) (blockCount r (s.argU 2)) nch.toNat) = none) :
    (after (exec (.lufsMeasure nch) s)).status.errcode = 0x00 := by
  rcases execLufsMeasure_cases nch s with ⟨h, -⟩ | ⟨h, -⟩ | ⟨-, -, ⟨h, -⟩ | ⟨r', hr', ⟨e, h, -⟩ | ⟨-, h⟩⟩⟩
  · omega
  · omega
  · simp [hr] at h
  · obtain rfl : r = r' := by simpa [hr] using hr'
    simp [hc] at h
  · show (after (execLufsMeasure nch s)).status.errcode = 0x00
    rw [h]; rfl

/-- RES2 of a measurement whose checks pass is the block count, RES4 and RES1 are what the gate gives. -/
theorem lufs_results {nch : BitVec 4} {s : State} {r : KwRate} (h8 : nch.toNat ≤ Config.chMax) (h0 : nch.toNat ≠ 0)
    (hr : rateOf (s.argU 3) = some r)
    (hc : firstError (lufsChecks (s.argU 0) (s.argU 1) (s.argU 2) (s.argU 4) (blockCount r (s.argU 2)) nch.toNat) = none) :
    (after (exec (.lufsMeasure nch) s)).res[2] = BitVec.ofNat 64 (blockCount r (s.argU 2)) ∧
    (after (exec (.lufsMeasure nch) s)).res[4] = BitVec.ofNat 64 (gate (s.blockPowers nch.toNat r)).nrel ∧
    (after (exec (.lufsMeasure nch) s)).res[1] = (gate (s.blockPowers nch.toNat r)).g := by
  rcases execLufsMeasure_cases nch s with ⟨h, -⟩ | ⟨h, -⟩ | ⟨-, -, ⟨h, -⟩ | ⟨r', hr', ⟨e, h, -⟩ | ⟨-, h⟩⟩⟩
  · omega
  · omega
  · simp [hr] at h
  · obtain rfl : r = r' := by simpa [hr] using hr'
    simp [hc] at h
  · obtain rfl : r = r' := by simpa [hr] using hr'
    show (after (execLufsMeasure nch s)).res[2] = _ ∧ (after (execLufsMeasure nch s)).res[4] = _ ∧
      (after (execLufsMeasure nch s)).res[1] = _
    rw [h]
    simp [after, State.finish, State.setLufs, State.setRes]

/-- KW_APPLY succeeds as soon as its checks pass. -/
theorem kw_success {s : State} {r : KwRate} (hr : rateOf (s.argU 3) = some r)
    (hc : firstError (bufferChecks (s.argU 0) (s.argU 1) (s.argU 2)) = none) :
    (after (exec .kwApply s)).status.errcode = 0x00 := by
  rcases execKwApply_cases s with ⟨h, -⟩ | ⟨r', -, ⟨e, h, -⟩ | ⟨-, h⟩⟩
  · simp [hr] at h
  · simp [hc] at h
  · show (after (execKwApply s)).status.errcode = 0x00
    rw [h]; rfl

/-- The seven branches of LufsErrors, the last one with a whole block next to its power. -/
theorem witness_LufsErrors :
    (after (exec (.lufsMeasure 9) (inFlight 0x9030 [2, 0, 0, 1]))).status.errcode = 0x01 ∧
    (after (exec (.lufsMeasure 0) (inFlight 0x0030 [2, 0, 0, 1]))).status.errcode = 0x00 ∧
    (after (exec (.lufsMeasure 8) (inFlight 0x8030 [2, 0, 0, 1]))).status.errcode = 0x02 ∧
    (after (exec (.lufsMeasure 8) (inFlight 0x8030 [0, 0, 0, 48000, 4]))).status.errcode = 0x03 ∧
    (after (exec (.lufsMeasure 8) (inFlight 0x8030 [0, 0, 19200, 48000, 0x1000000]))).status.errcode = 0x04 ∧
    (after (exec (.lufsMeasure 8) (inFlight 0x8030 [0, 0, 17640, 44100, 70552]))).status.errcode = 0x05 ∧
    (after (exec (.lufsMeasure 8) (inFlight 0x8030 [0, 0, 17640, 44100, 70560]))).status.errcode = 0x00 := by
  refine ⟨?_, ?_, ?_, ?_, ?_, ?_, lufs_success (r := .hz44100) ?_ ?_ ?_ ?_⟩ <;> decide +kernel

/-- DMEM with `n` zero bytes from offset `a` on. -/
def zeroBytes (a n : Nat) : Dmem := (List.range' a n).map fun b => (b, 0)

theorem read_zeroBytes (n : Nat) : ∀ a b : Nat, a ≤ b → b < a + n → Dmem.read (zeroBytes a n) b = some 0 := by
  induction n with
  | zero => intro a b _ _; omega
  | succ n ih =>
    intro a b h1 h2
    have : zeroBytes a (n + 1) = (a, 0) :: zeroBytes (a + 1) n := rfl
    rw [this, Dmem.read]
    split
    · rfl
    · rw [if_neg (by omega), ih _ _ (by omega) (by omega)]

/-- One block of silence at 48 000 Hz. -/
def silence : State := { inFlight 0x1030 [0, 0, 19200, 48000, 76800] with dmem := zeroBytes 0 76800 }

/-- LUFS_MEASURE of 17639 samples at 44 100 Hz, one sample short of a block. -/
def tooShort : State := inFlight 0x1030 [0, 0, 17639, 44100, 0]

/-- The first case of LufsOfSilence. Without a block, no power is above T_ABS either. -/
theorem witness_LufsOfSilence_short :
    tooShort.argl = #v[0, 0, 17639, 44100, 0, 0, 0, 0] ∧ (1 : BitVec 4) ≠ 0 ∧
    (∀ j, j < 0 ↔ j * hopH .hz44100 + lengthB .hz44100 ≤ 17639) ∧
    exec (.lufsMeasure 1) tooShort = .next (after (exec (.lufsMeasure 1) tooShort)) ∧
    (after (exec (.lufsMeasure 1) tooShort)).status.errcode = 0x00 ∧ 17639 < lengthB .hz44100 := by
  refine ⟨rfl, by decide, fun j => ?_, exec_next _ _, lufs_success (r := .hz44100) ?_ ?_ ?_ ?_, by decide⟩
  · simp only [hopH, lengthB]; omega
  all_goals decide +kernel

/-- The second case of LufsOfSilence: a whole block of zeros, whose power is then not above T_ABS. -/
theorem witness_LufsOfSilence :
    silence.argl = #v[0, 0, 19200, 48000, 76800, 0, 0, 0] ∧ (1 : BitVec 4) ≠ 0 ∧
    (∀ j, j < 1 ↔ j * hopH .hz48000 + lengthB .hz48000 ≤ 19200) ∧
    exec (.lufsMeasure 1) silence = .next (after (exec (.lufsMeasure 1) silence)) ∧
    (after (exec (.lufsMeasure 1) silence)).status.errcode = 0x00 ∧
    ∀ c i, c < (1 : BitVec 4).toNat → i < 19200 →
      silence.loadS (0 + c * 0 + 4 * i) = 0 ∨ silence.loadS (0 + c * 0 + 4 * i) = 0x80000000 := by
  refine ⟨rfl, by decide, fun j => ?_, exec_next _ _, lufs_success (r := .hz48000) ?_ ?_ ?_ ?_, fun c i _ hi => .inl ?_⟩
  · simp only [hopH, lengthB]; omega
  iterate 4 decide +kernel
  have h : ∀ j, j < 4 → silence.byteAt (4 * i + j) = 0 := fun j hj => by
    simp only [State.byteAt, silence, read_zeroBytes 76800 0 (4 * i + j) (by omega) (by omega), Option.getD_some]
  have h0 := h 0 (by omega)
  have h1 := h 1 (by omega)
  have h2 := h 2 (by omega)
  have h3 := h 3 (by omega)
  simp only [Nat.add_zero] at h0
  simp [State.loadS, State.memRead, h0, h1, h2, h3, Nat.add_assoc]

/-- One block at 48 000 Hz, the K-weighted channel stored right after it and the block power after that. -/
def kwBlock : State := inFlight 0x020 [0, 76800, 19200, 48000, 0]

def kwBlockArgs : Vector B64 8 := #v[0, 0, 19200, 48000, 153600, 0, 0, 0]

theorem witness_LufsPowerMatchesKwApply :
    kwBlockArgs[0] = kwBlock.argl[0] ∧ kwBlockArgs[2] = kwBlock.argl[2] ∧ kwBlockArgs[3] = kwBlock.argl[3] ∧
    kwBlock.argl[3].toNat = 48000 ∧ exec .kwApply kwBlock = .next (after (exec .kwApply kwBlock)) ∧
    (after (exec .kwApply kwBlock)).status.errcode = 0x00 ∧
    exec (.lufsMeasure 1) { kwBlock with argl := kwBlockArgs } =
      .next (after (exec (.lufsMeasure 1) { kwBlock with argl := kwBlockArgs })) ∧
    (after (exec (.lufsMeasure 1) { kwBlock with argl := kwBlockArgs })).status.errcode = 0x00 ∧
    0 * hopH .hz48000 + lengthB .hz48000 ≤ kwBlock.argl[2].toNat := by
  refine ⟨rfl, rfl, rfl, by decide, exec_next _ _, kw_success (r := .hz48000) ?_ ?_, exec_next _ _,
    lufs_success (r := .hz48000) ?_ ?_ ?_ ?_, by decide⟩ <;> decide +kernel

/-- The powers 1.0 and 0.5. -/
theorem witness_DuplicateChannelDoubles :
    ([0x3FF0000000000000, 0x3FE0000000000000] : List B64).length ≤ 2 ^ 53 ∧
    finite64 0x3FF0000000000000 ∧ finite64 0x3FE0000000000000 ∧
    (gate [0x3FF0000000000000, 0x3FE0000000000000]).nrel = 2 ∧
    (gate [fadd 0x3FF0000000000000 0x3FF0000000000000, fadd 0x3FE0000000000000 0x3FE0000000000000]).nrel = 2 ∧
    finite64 (gate [fadd 0x3FF0000000000000 0x3FF0000000000000, fadd 0x3FE0000000000000 0x3FE0000000000000]).g := by
  refine ⟨by norm_num, ?_⟩
  unfold finite64; decide +kernel

/-- The exec clause of DuplicateChannelDoubles: one block at 48 000 Hz, measured as one channel and as two. -/
theorem witness_DuplicateChannelDoubles_measured :
    silence.argl[1] = 0 ∧ exec (.lufsMeasure 1) silence = .next (after (exec (.lufsMeasure 1) silence)) ∧
    (after (exec (.lufsMeasure 1) silence)).status.errcode = 0x00 ∧
    exec (.lufsMeasure 2) silence = .next (after (exec (.lufsMeasure 2) silence)) ∧
    (after (exec (.lufsMeasure 2) silence)).status.errcode = 0x00 ∧
    (after (exec (.lufsMeasure 1) silence)).res[2] = BitVec.ofNat 64 1 ∧ 1 < 2 ^ 53 := by
  refine ⟨rfl, exec_next _ _, lufs_success (r := .hz48000) ?_ ?_ ?_ ?_, exec_next _ _,
    lufs_success (r := .hz48000) ?_ ?_ ?_ ?_, ?_, by norm_num⟩
  iterate 8 decide +kernel
  exact (lufs_results (r := .hz48000) (by decide) (by decide) (by decide) (by decide +kernel)).1

/-- Every hypothesis of that clause, those on its last line too, on the measurement without a block. -/
theorem witness_DuplicateChannelDoubles_gated :
    let t := after (exec (.lufsMeasure 1) tooShort)
    let u := after (exec (.lufsMeasure 2) tooShort)
    tooShort.argl[1] = 0 ∧ exec (.lufsMeasure 1) tooShort = .next t ∧ t.status.errcode = 0x00 ∧
    exec (.lufsMeasure 2) tooShort = .next u ∧ u.status.errcode = 0x00 ∧ t.res[2] = BitVec.ofNat 64 0 ∧
    t.res[4] = t.res[2] ∧ u.res[4] = u.res[2] ∧ finite64 u.res[1] := by
  have h (nch : BitVec 4) (h1 : nch.toNat ≤ Config.chMax) (h0 : nch.toNat ≠ 0)
      (hc : firstError (lufsChecks 0 0 17639 0 0 nch.toNat) = none) :
      (after (exec (.lufsMeasure nch) tooShort)).status.errcode = 0x00 ∧
      (after (exec (.lufsMeasure nch) tooShort)).res[2] = 0 ∧ (after (exec (.lufsMeasure nch) tooShort)).res[4] = 0 ∧
      (after (exec (.lufsMeasure nch) tooShort)).res[1] = 0 :=
    have hr : rateOf (tooShort.argU 3) = some .hz44100 := by decide
    ⟨lufs_success h1 h0 hr hc, lufs_results h1 h0 hr hc⟩
  have h1 := h 1 (by decide) (by decide) (by decide +kernel)
  have h2 := h 2 (by decide) (by decide) (by decide +kernel)
  refine ⟨rfl, exec_next _ _, h1.1, exec_next _ _, h2.1, h1.2.1, h1.2.2.1.trans h1.2.1.symm, h2.2.2.1.trans h2.2.1.symm, ?_⟩
  rw [h2.2.2.2]; unfold finite64; decide

/-- Eight channels over one buffer that ends at the end of DMEM, and an empty one. -/
theorem witness_TpResult :
    ((8 : BitVec 4) ≠ 0 ∧ (8 : BitVec 4).toNat ≤ Config.chMax) ∧
    ((inFlight 0x8040 [0xFFFFF8, 0, 2]).argl = #v[0xFFFFF8, 0, 2, 0, 0, 0, 0, 0] ∧ 0xFFFFF8 % 4 = 0 ∧
      ∀ c, c < (8 : BitVec 4).toNat → 0xFFFFF8 + c * 0 + 4 * 2 ≤ Config.dmemBytes) ∧
    ((inFlight 0x8040 [0xFFFFFFFFFFFFFFFC, 4, 0]).argl = #v[0xFFFFFFFFFFFFFFFC, 4, 0, 0, 0, 0, 0, 0] ∧
      0xFFFFFFFFFFFFFFFC % 4 = 0) :=
  ⟨by decide, ⟨rfl, by decide, by decide⟩, rfl, by decide⟩

/-- The five branches of TpErrors. -/
theorem witness_TpErrors :
    (after (exec (.tpMeasure 9) (inFlight 0x9040 [2, 0, 1]))).status.errcode = 0x01 ∧
    (after (exec (.tpMeasure 0) (inFlight 0x0040 [2, 0, 1]))).status.errcode = 0x00 ∧
    (after (exec (.tpMeasure 8) (inFlight 0x8040 [0, 2, 1]))).status.errcode = 0x03 ∧
    (after (exec (.tpMeasure 8) (inFlight 0x8040 [0xFFFFE0, 4, 2]))).status.errcode = 0x04 ∧
    (after (exec (.tpMeasure 2) { inFlight 0x2040 [0, 4, 1] with dmem := twoSamples })).status.errcode = 0x00 := by
  decide +kernel

/-- Both clauses of TpBoundsEverySample: a NaN sample, and a peak that is not NaN. -/
theorem witness_TpBoundsEverySample :
    let s := { inFlight 0x1040 [0, 0, 2] with dmem := twoSamples }
    let u := { inFlight 0x1040 [0, 0, 2] with dmem := kwOfNaN.dmem }
    (exec (.tpMeasure 1) s = .next (after (exec (.tpMeasure 1) s)) ∧
      (after (exec (.tpMeasure 1) s)).status.errcode = 0x00 ∧ 0 < (1 : BitVec 4).toNat ∧ 1 < s.argl[2].toNat ∧
      ¬ nanPattern64 (after (exec (.tpMeasure 1) s)).res[0]) ∧
    (exec (.tpMeasure 1) u = .next (after (exec (.tpMeasure 1) u)) ∧
      (after (exec (.tpMeasure 1) u)).status.errcode = 0x00 ∧ nanPattern32 (u.loadS (0 + 0 * 0 + 4 * 0))) := by
  refine ⟨⟨exec_next _ _, ?_, ?_, ?_, ?_⟩, exec_next _ _, ?_, ?_⟩
  all_goals (try unfold nanPattern64); (try unfold nanPattern32); decide +kernel

theorem witness_TpChannelLaws :
    ([[0x3FF0000000000000], [0]] : List (List B64)).Perm [[0], [0x3FF0000000000000]] ∧ (8 : BitVec 4) ≠ 0 ∧
    (8 : BitVec 4).toNat ≤ Config.chMax ∧ (inFlight 0x8040 [0, 0, 2]).argl[1] = 0 := by
  decide

/-- The largest finite datum plus 2^970 is at the overflow threshold; 1.0 − 1.0 is an exact zero. -/
theorem witness_SumsAreCorrectlyRounded :
    (finite64 0x7FEFFFFFFFFFFFFF ∧ finite64 0x7C90000000000000 ∧
      fadd 0x7FEFFFFFFFFFFFFF 0x7C90000000000000 = 0x7FF0000000000000) ∧
    (finite64 0x3FF0000000000000 ∧ finite64 0xBFF0000000000000 ∧ fadd 0x3FF0000000000000 0xBFF0000000000000 = 0) := by
  unfold finite64; decide +kernel

theorem test_val_zero : val64 0 = 0 := by simp [val64]

/-- A non-zero divisor, and a zero one. -/
theorem witness_ProductsAreCorrectlyRounded :
    finite64 0x8000000000000001 ∧ finite64 0x3FF0000000000000 ∧ val64 0x3FF0000000000000 ≠ 0 ∧ finite64 0 ∧ val64 0 = 0 :=
  ⟨by unfold finite64; decide, test_finite_one, test_val_one_ne, by unfold finite64; decide, test_val_zero⟩

/-- Infinite operands, by hand from R19, R179 and R283. -/
theorem test_infinite_operands :
    fsub 0x7FF0000000000000 0x7FF0000000000000 = nan64 ∧ fmul 0x8000000000000000 0x7FF0000000000000 = nan64 ∧
    fdiv 0x7FF0000000000000 0xFFF0000000000000 = nan64 ∧ fdiv 0x3FF0000000000000 0xFFF0000000000000 = 0x8000000000000000 ∧
    fadd 0xFFF0000000000000 0x3FF0000000000000 = 0xFFF0000000000000 := by
  decide +kernel

theorem witness_ConversionsAreCorrectlyRounded :
    (2 : Nat) ^ 53 - 1 < 2 ^ 53 ∧ finite32 0x00000001 ∧ nanPattern32 0x7F800001 ∧ finite64 0x3FF0000000000000 ∧
    nanPattern64 0xFFF0000000000001 := by
  refine ⟨by norm_num, ?_⟩
  unfold finite32 nanPattern32 finite64 nanPattern64; decide

theorem witness_NaNsAndComparisons :
    nan64 ∈ [fadd nan64 0, fsub nan64 0, fmul nan64 0, fdiv nan64 0, fmax nan64 0, fabs nan64] ∧ nanPattern64 nan64 ∧
    ¬ nanPattern64 0 ∧ finite64 0 ∧ finite64 0x8000000000000000 := by
  unfold finite64 nanPattern64; decide

/-- 1.0 = 10^0 and 1000.0 = 10^3, and the four kinds of special operand. -/
theorem witness_LogarithmMeetsItsBounds :
    (finite64 0x3FF0000000000000 ∧ val64 0x3FF0000000000000 = (10 : ℚ) ^ (0 : ℤ)) ∧
    (finite64 0x408F400000000000 ∧ val64 0x408F400000000000 = (10 : ℚ) ^ (3 : ℤ) ∧ 0 < val64 0x408F400000000000) ∧
    nanPattern64 nan64 ∧ flt 0xBFF0000000000000 0 = true := by
  have h : val64 0x408F400000000000 = 1000 := by simp [val64]; norm_num
  refine ⟨⟨test_finite_one, by rw [test_val_one]; norm_num⟩, ⟨by unfold finite64; decide, ?_, by rw [h]; norm_num⟩,
    by unfold nanPattern64; decide, by decide⟩
  rw [h]; norm_num

end Sys2Proof.Machine.Tests
end

section
/-!
PROOF. Rounding of a magnitude, in either format: which magnitudes the patterns have, and that `roundUnits` answers the
nearest one, ties to even (00_scope.md R19, R23).
-/

namespace Sys2Proof.Machine

theorem unitsOf_subnormal {frac m : ℕ} (h : m < 2 ^ frac) : unitsOf frac m = m := by
  rw [unitsOf, if_pos (by rw [Nat.shiftRight_eq_div_pow, Nat.div_eq_of_lt h])]

theorem unitsOf_normal {frac f : ℕ} (e : ℕ) (h : f < 2 ^ frac) :
    unitsOf frac ((e + 1) * 2 ^ frac + f) = (2 ^ frac + f) * 2 ^ e := by
  have hdiv : ((e + 1) * 2 ^ frac + f) / 2 ^ frac = e + 1 := by
    rw [mul_comm, Nat.mul_add_div (by positivity), Nat.div_eq_of_lt h, add_zero]
  have hmod : ((e + 1) * 2 ^ frac + f) % 2 ^ frac = f := by
    rw [Nat.mul_add_mod_of_lt h]
  simp [unitsOf, Nat.shiftRight_eq_div_pow, Nat.shiftLeft_eq, hdiv, hmod]

/-- The units of a pattern cut into `t` exponent steps and a significand `q`; a significand that has just carried is
allowed. -/
theorem unitsOf_exponent_significand {frac t q : ℕ} (hnormal : t = 0 ∨ 2 ^ frac ≤ q) (hq : q ≤ 2 ^ (frac + 1)) :
    unitsOf frac (t * 2 ^ frac + q) = q * 2 ^ t := by
  obtain hlt | hge := lt_or_ge q (2 ^ frac)
  · obtain rfl : t = 0 := by omega
    simp [unitsOf_subnormal hlt]
  · obtain ⟨f, rfl⟩ := Nat.exists_eq_add_of_le hge
    obtain hf | hf := lt_or_ge f (2 ^ frac)
    · rw [← unitsOf_normal t hf]; congr 1; ring
    · obtain rfl : f = 2 ^ frac := by rw [pow_succ] at hq; omega
      calc unitsOf frac (t * 2 ^ frac + (2 ^ frac + 2 ^ frac))
          = unitsOf frac ((t + 1 + 1) * 2 ^ frac + 0) := by congr 1; ring
        _ = (2 ^ frac + 0) * 2 ^ (t + 1) := unitsOf_normal _ (by positivity)
        _ = (2 ^ frac + 2 ^ frac) * 2 ^ t := by ring

/-- Every pattern is such a cut, with a significand that has not carried. -/
theorem exists_exponent_significand (frac m : ℕ) :
    ∃ t q, m = t * 2 ^ frac + q ∧ (t = 0 ∨ 2 ^ frac ≤ q) ∧ q < 2 ^ (frac + 1) := by
  have hlt : m % 2 ^ frac < 2 ^ frac := Nat.mod_lt _ (by positivity)
  have hm : 2 ^ frac * (m / 2 ^ frac) + m % 2 ^ frac = m := Nat.div_add_mod _ _
  cases he : m / 2 ^ frac with
  | zero => exact ⟨0, m, by simp, .inl rfl, by rw [he] at hm; rw [pow_succ]; omega⟩
  | succ t =>
    refine ⟨t, 2 ^ frac + m % 2 ^ frac, ?_, .inr (by omega), by rw [pow_succ]; omega⟩
    rw [he] at hm
    linarith [hm, mul_comm (2 ^ frac) (t + 1), add_mul t 1 (2 ^ frac)]

/-- R19, R23: greater patterns have greater magnitudes. -/
theorem unitsOf_strictMono (frac : ℕ) : StrictMono (unitsOf frac) := by
  refine strictMono_nat_of_lt_succ fun m => ?_
  obtain ⟨t, q, rfl, hnormal, hq⟩ := exists_exponent_significand frac m
  rw [add_assoc, unitsOf_exponent_significand hnormal hq.le, unitsOf_exponent_significand (by omega) hq]
  gcongr
  omega

/-- `mag` is the pattern nearest to the magnitude `x` among those with the magnitudes `u`; where another is as
near, it is even. -/
def NearestEven (u : ℕ → ℕ) (x : ℚ) (mag : ℕ) : Prop :=
  (∀ m, |x - u mag| ≤ |x - u m|) ∧ ∀ m, u m ≠ u mag → |x - u m| = |x - u mag| → mag % 2 = 0

/-- Of two neighbouring patterns whose magnitudes enclose `x`, the nearer one `c`, and at the midpoint the even one, is
nearest of all. -/
theorem NearestEven.of_neighbours {u : ℕ → ℕ} (hu : StrictMono u) {x : ℚ} {p c o : ℕ} (hlo : u p ≤ x)
    (hhi : x ≤ u (p + 1)) (hco : c = p ∧ o = p + 1 ∨ c = p + 1 ∧ o = p) (hle : |x - u c| ≤ |x - u o|)
    (htie : |x - u c| = |x - u o| → c % 2 = 0) : NearestEven u x c := by
  have hbelow : ∀ m, m < p → |x - u p| < |x - u m| := fun m hm => by
    have : (u m : ℚ) < u p := by exact_mod_cast hu hm
    rw [abs_of_nonneg (by linarith), abs_of_nonneg (by linarith)]
    linarith
  have habove : ∀ m, p + 1 < m → |x - u (p + 1)| < |x - u m| := fun m hm => by
    have : (u (p + 1) : ℚ) < u m := by exact_mod_cast hu hm
    rw [abs_of_nonpos (by linarith), abs_of_nonpos (by linarith)]
    linarith
  have hall : ∀ m, m = c ∨ m = o ∨ |x - u c| < |x - u m| := by
    intro m
    obtain hm | hm | hm | hm : m < p ∨ m = p ∨ m = p + 1 ∨ p + 1 < m := by omega
    · have := hbelow m hm
      obtain ⟨rfl, rfl⟩ | ⟨rfl, rfl⟩ := hco
      · exact .inr (.inr this)
      · exact .inr (.inr (hle.trans_lt this))
    · omega
    · omega
    · have := habove m hm
      obtain ⟨rfl, rfl⟩ | ⟨rfl, rfl⟩ := hco
      · exact .inr (.inr (hle.trans_lt this))
      · exact .inr (.inr this)
  refine ⟨fun m => ?_, fun m hne heq => ?_⟩ <;> obtain rfl | rfl | hm := hall m
  · exact le_rfl
  · exact hle
  · exact hm.le
  · exact absurd rfl hne
  · exact htie heq.symm
  · exact absurd heq hm.ne'

/-- The bits of `n / d` below the last place of the result, as `roundUnits` counts them, leave a significand that fits
the format. -/
theorem truncated_significand (frac n d : ℕ) :
    let t := (n / d).log2 - frac
    (t = 0 ∨ 2 ^ frac ≤ n / (d * 2 ^ t)) ∧ n / (d * 2 ^ t) < 2 ^ (frac + 1) := by
  intro t
  rw [← Nat.div_div_eq_div_mul]
  refine ⟨or_iff_not_imp_left.2 fun ht => ?_, ?_⟩
  · have hlog : frac + t = (n / d).log2 := by omega
    have hne : n / d ≠ 0 := fun h0 => ht (by simp [t, h0])
    rw [Nat.le_div_iff_mul_le (by positivity), ← pow_add, hlog]
    exact Nat.log2_self_le hne
  · rw [Nat.div_lt_iff_lt_mul (by positivity), ← pow_add]
    exact Nat.lt_log2_self.trans_le (Nat.pow_le_pow_right (by norm_num) (by omega))

/-- A whole number of `frac + 1` significant bits is the magnitude of a pattern. -/
theorem exists_unitsOf (frac : ℕ) {n : ℕ} (hn : n ≤ 2 ^ (frac + 1)) (e : ℕ) : ∃ m, unitsOf frac m = n * 2 ^ e := by
  obtain hlt | rfl := hn.lt_or_eq
  · obtain ⟨hnormal, hq⟩ := truncated_significand frac (n * 2 ^ e) 1
    refine ⟨_, (unitsOf_exponent_significand hnormal hq.le).trans ?_⟩
    rw [one_mul, Nat.div_one]
    refine Nat.div_mul_cancel ((Nat.pow_dvd_pow 2 ?_).trans (Nat.dvd_mul_left _ _))
    obtain h0 | h0 := eq_or_ne (n * 2 ^ e) 0
    · simp [h0]
    · have hlog : (n * 2 ^ e).log2 < frac + 1 + e := by
        rw [Nat.log2_lt h0, pow_add]
        gcongr
      omega
  · exact ⟨_, unitsOf_exponent_significand (.inr (Nat.pow_le_pow_right two_pos frac.le_succ)) le_rfl⟩

/-- The choice of `roundUnits` between a truncated pattern `p` and the next one, from the remainder `r`: the nearer
one, at the midpoint the even one. -/
theorem nearestEven_of_remainder {u : ℕ → ℕ} (hu : StrictMono u) {p q t n d r : ℕ} (hd : 0 < d)
    (hlo : u p = q * 2 ^ t) (hhi : u (p + 1) = (q + 1) * 2 ^ t) (hn : n = d * 2 ^ t * q + r) (hr : r < d * 2 ^ t) :
    NearestEven u ((n : ℚ) / d)
      (if d * 2 ^ t < 2 * r ∨ 2 * r = d * 2 ^ t ∧ p % 2 = 1 then p + 1 else p) := by
  have hd' : (0 : ℚ) < d := by exact_mod_cast hd
  have hr' : (r : ℚ) < d * 2 ^ t := by exact_mod_cast hr
  have hbelow : (n : ℚ) / d - u p = r / d := by
    rw [hlo, hn]; push_cast; field_simp; ring
  have habove : (u (p + 1) : ℚ) - n / d = (d * 2 ^ t - r) / d := by
    rw [hhi, hn]; push_cast; field_simp; ring
  have hbelow_nonneg : (0 : ℚ) ≤ r / d := by positivity
  have habove_nonneg : (0 : ℚ) ≤ (d * 2 ^ t - r) / d := div_nonneg (by linarith) hd'.le
  have habs_below : |(n : ℚ) / d - u p| = r / d := by rw [hbelow, abs_of_nonneg hbelow_nonneg]
  have habs_above : |(n : ℚ) / d - u (p + 1)| = (d * 2 ^ t - r) / d := by
    rw [abs_sub_comm, habove, abs_of_nonneg habove_nonneg]
  have hlo' : (u p : ℚ) ≤ n / d := by linarith
  have hhi' : (n : ℚ) / d ≤ u (p + 1) := by linarith
  split
  case isTrue h =>
    have h2r : (d : ℚ) * 2 ^ t ≤ 2 * r := by exact_mod_cast (by omega : d * 2 ^ t ≤ 2 * r)
    refine .of_neighbours hu hlo' hhi' (.inr ⟨rfl, rfl⟩) ?_ fun heq => ?_
    · rw [habs_above, habs_below]; gcongr; linarith
    · rw [habs_above, habs_below, div_left_inj' hd'.ne'] at heq
      have h2r : d * 2 ^ t = 2 * r := by exact_mod_cast (by linarith : (d : ℚ) * 2 ^ t = 2 * r)
      omega
  case isFalse h =>
    have h2r : 2 * (r : ℚ) ≤ d * 2 ^ t := by exact_mod_cast (by omega : 2 * r ≤ d * 2 ^ t)
    refine .of_neighbours hu hlo' hhi' (.inl ⟨rfl, rfl⟩) ?_ fun heq => ?_
    · rw [habs_above, habs_below]; gcongr; linarith
    · rw [habs_above, habs_below, div_left_inj' hd'.ne'] at heq
      have h2r : d * 2 ^ t = 2 * r := by exact_mod_cast (by linarith : (d : ℚ) * 2 ^ t = 2 * r)
      omega

/-- R19, R23: `roundUnits` answers the pattern nearest to `n / d`, ties to even, cut off at the infinity pattern. -/
theorem roundUnits_nearestEven {frac : ℕ} (hfrac : 0 < frac) (inf n : ℕ) {d : ℕ} (hd : 0 < d) :
    ∃ mag, NearestEven (unitsOf frac) ((n : ℚ) / d) mag ∧
      roundUnits frac inf n d = if mag < inf then mag else inf := by
  obtain ⟨hnormal, hq⟩ := truncated_significand frac n d
  have hparity : ∀ t q, (t * 2 ^ frac + q) % 2 = q % 2 := fun t q => by
    obtain ⟨k, rfl⟩ := Nat.exists_eq_succ_of_ne_zero hfrac.ne'
    rw [pow_succ, ← mul_assoc, Nat.mul_add_mod_self_right]
  have hnearest := nearestEven_of_remainder (unitsOf_strictMono frac) hd
    (unitsOf_exponent_significand hnormal hq.le) (unitsOf_exponent_significand (by omega) hq)
    (Nat.div_add_mod n _).symm (Nat.mod_lt _ (by positivity))
  refine ⟨_, hnearest, ?_⟩
  simp only [roundUnits, Nat.shiftLeft_eq, hparity, Bool.or_eq_true, decide_eq_true_eq, Bool.and_eq_true, beq_iff_eq,
    add_assoc, ← apply_ite]

end Sys2Proof.Machine
end

section
/-!
PROOF. Patterns and values: the fields of a pattern, its sign and magnitude, and the value they give (00_scope.md R15).
-/

namespace Sys2Proof.Machine

/-- The sign factor of a sign bit. -/
def signFactor (neg : Bool) : ℚ := if neg then -1 else 1

@[simp] theorem signFactor_false : signFactor false = 1 := rfl
@[simp] theorem signFactor_true : signFactor true = -1 := rfl

@[simp] theorem signFactor_not (s : Bool) : signFactor (!s) = -signFactor s := by cases s <;> simp

theorem signFactor_xor (s t : Bool) : signFactor (s != t) = signFactor s * signFactor t := by
  cases s <;> cases t <;> simp

@[simp] theorem abs_signFactor (s : Bool) : |signFactor s| = 1 := by cases s <;> simp

theorem signFactor_ne_zero (s : Bool) : signFactor s ≠ 0 := by cases s <;> simp

/-- The value of one unit of `b64`, its smallest subnormal. -/
def unit64 : ℚ := 2 ^ (-1074 : ℤ)

/-- The value of one unit of `b32`, its smallest subnormal. -/
def unit32 : ℚ := 2 ^ (-149 : ℤ)

theorem unit64_pos : 0 < unit64 := by unfold unit64; positivity

theorem unit32_pos : 0 < unit32 := by unfold unit32; positivity

/-- The value of a pattern from its exponent field `E` and its fraction field `F`, as IEEE 754 gives it. -/
theorem unitsOf_fields_value {frac E F : ℕ} (bias : ℤ) (hF : F < 2 ^ frac) :
    (unitsOf frac (E * 2 ^ frac + F) : ℚ) * 2 ^ (-bias) =
      if E = 0 then (F : ℚ) * 2 ^ (-bias) else ((2 ^ frac + F : ℕ) : ℚ) * 2 ^ ((E : ℤ) - (bias + 1)) := by
  cases E with
  | zero => simp [unitsOf_subnormal hF]
  | succ e =>
    have he : (2 : ℚ) ^ (((e + 1 : ℕ) : ℤ) - (bias + 1)) = 2 ^ e * 2 ^ (-bias) := by
      rw [← zpow_natCast, ← zpow_add₀ (by norm_num)]
      congr 1; push_cast; ring
    rw [unitsOf_normal e hF, if_neg (by simp), he]
    push_cast
    ring

/-! ### binary64 -/

theorem getLsbD_sign64 (v : B64) : v.getLsbD 63 = neg64 v := by rw [neg64, BitVec.msb_eq_getLsbD_last]

theorem mag64_lt (v : B64) : mag64 v < 2 ^ 63 := Nat.mod_lt _ (by norm_num)

theorem toNat_eq_sign_mag64 (v : B64) : v.toNat = (if neg64 v then 2 ^ 63 else 0) + mag64 v := by
  have := v.isLt
  simp only [neg64, mag64, BitVec.msb_eq_decide]
  split <;> simp_all <;> omega

theorem mag64_fields (v : B64) :
    mag64 v = (v.extractLsb' 52 11).toNat * 2 ^ 52 + (v.extractLsb' 0 52).toNat := by
  simp only [mag64, BitVec.extractLsb'_toNat, Nat.shiftRight_eq_div_pow]
  omega

@[simp] theorem mag64_pack64 {m : ℕ} (s : Bool) (hm : m < 2 ^ 63) : mag64 (pack64 s m) = m := by
  cases s <;> simp [pack64, mag64] <;> omega

@[simp] theorem neg64_pack64 {m : ℕ} (s : Bool) (hm : m < 2 ^ 63) : neg64 (pack64 s m) = s := by
  cases s <;> simp [pack64, neg64, BitVec.msb_eq_decide] <;> omega

theorem finite64_iff (v : B64) : finite64 v ↔ mag64 v < infMag64 := by
  have hE := (v.extractLsb' 52 11).isLt
  have hF := (v.extractLsb' 0 52).isLt
  rw [finite64, ne_eq, ← BitVec.toNat_inj, mag64_fields, infMag64]
  simp
  omega

theorem nanPattern64_iff (v : B64) : nanPattern64 v ↔ infMag64 < mag64 v := by
  have hE := (v.extractLsb' 52 11).isLt
  have hF := (v.extractLsb' 0 52).isLt
  rw [nanPattern64, ne_eq, ← BitVec.toNat_inj, ← BitVec.toNat_inj, mag64_fields, infMag64]
  simp
  omega

theorem getLsbD_zero64 (v : B64) : v.getLsbD 0 = false ↔ mag64 v % 2 = 0 := by
  rw [BitVec.getLsbD, Nat.testBit_zero, mag64]
  simp

theorem val64_eq (v : B64) : val64 v = signFactor (neg64 v) * (units64 v * unit64) := by
  rw [val64, getLsbD_sign64, ← signFactor, units64, mag64_fields, unit64,
    unitsOf_fields_value _ (v.extractLsb' 0 52).isLt]
  simp only [← BitVec.toNat_inj]
  rfl

theorem inf64_eq_pack64 (s : Bool) : inf64 s = pack64 s infMag64 := by cases s <;> rfl

/-! ### binary32 -/

theorem getLsbD_sign32 (v : B32) : v.getLsbD 31 = neg32 v := by rw [neg32, BitVec.msb_eq_getLsbD_last]

theorem mag32_lt (v : B32) : mag32 v < 2 ^ 31 := Nat.mod_lt _ (by norm_num)

theorem mag32_fields (v : B32) :
    mag32 v = (v.extractLsb' 23 8).toNat * 2 ^ 23 + (v.extractLsb' 0 23).toNat := by
  simp only [mag32, BitVec.extractLsb'_toNat, Nat.shiftRight_eq_div_pow]
  omega

@[simp] theorem mag32_pack32 {m : ℕ} (s : Bool) (hm : m < 2 ^ 31) : mag32 (pack32 s m) = m := by
  cases s <;> simp [pack32, mag32] <;> omega

@[simp] theorem neg32_pack32 {m : ℕ} (s : Bool) (hm : m < 2 ^ 31) : neg32 (pack32 s m) = s := by
  cases s <;> simp [pack32, neg32, BitVec.msb_eq_decide] <;> omega

theorem finite32_iff (v : B32) : finite32 v ↔ mag32 v < infMag32 := by
  have hE := (v.extractLsb' 23 8).isLt
  have hF := (v.extractLsb' 0 23).isLt
  rw [finite32, ne_eq, ← BitVec.toNat_inj, mag32_fields, infMag32]
  simp
  omega

theorem nanPattern32_iff (v : B32) : nanPattern32 v ↔ infMag32 < mag32 v := by
  have hE := (v.extractLsb' 23 8).isLt
  have hF := (v.extractLsb' 0 23).isLt
  rw [nanPattern32, ne_eq, ← BitVec.toNat_inj, ← BitVec.toNat_inj, mag32_fields, infMag32]
  simp
  omega

theorem getLsbD_zero32 (v : B32) : v.getLsbD 0 = false ↔ mag32 v % 2 = 0 := by
  rw [BitVec.getLsbD, Nat.testBit_zero, mag32]
  simp

theorem val32_eq (v : B32) : val32 v = signFactor (neg32 v) * (units32 v * unit32) := by
  rw [val32, getLsbD_sign32, ← signFactor, units32, mag32_fields, unit32,
    unitsOf_fields_value _ (v.extractLsb' 0 23).isLt]
  simp only [← BitVec.toNat_inj]
  rfl

end Sys2Proof.Machine
end

section
/-!
PROOF. Correct rounding of a signed number into `b64` and `b32`, overflow to infinity included (00_scope.md R19, R23).
-/

namespace Sys2Proof.Machine

@[simp] theorem unitsOf_zero (frac : ℕ) : unitsOf frac 0 = 0 := unitsOf_subnormal (by positivity)

theorem abs_signFactor_mul_sub {c : ℚ} (hc : 0 < c) (s s' : Bool) (x y : ℚ) :
    |signFactor s * (x * c) - signFactor s' * (y * c)| = |x - if s' = s then y else -y| * c := by
  rw [← abs_of_pos hc, ← abs_mul, abs_of_pos hc]
  cases s <;> cases s' <;> simp [sub_mul, add_mul]
  · rw [← abs_neg]; ring_nf
  · rw [← abs_neg]; ring_nf

/-- The nearest magnitude with the sign of the rounded number is nearest among the signed magnitudes as well. -/
theorem NearestEven.signed {u : ℕ → ℕ} {x c : ℚ} {mag : ℕ} (h : NearestEven u x mag) (hzero : u 0 = 0) (hx : 0 ≤ x)
    (hc : 0 < c) (s s' : Bool) (m : ℕ) :
    |signFactor s * (x * c) - signFactor s * (u mag * c)| ≤ |signFactor s * (x * c) - signFactor s' * (u m * c)| ∧
      (signFactor s' * (u m * c) ≠ signFactor s * (u mag * c) →
        |signFactor s * (x * c) - signFactor s' * (u m * c)| = |signFactor s * (x * c) - signFactor s * (u mag * c)| →
        mag % 2 = 0) := by
  simp only [abs_signFactor_mul_sub hc, if_true, mul_le_mul_iff_left₀ hc, mul_left_inj' hc.ne']
  obtain rfl | hs := eq_or_ne s' s
  · simp only [if_true]
    exact ⟨h.1 m, fun hne => h.2 m fun heq => hne (by rw [heq])⟩
  · have hm : (0 : ℚ) ≤ u m := by positivity
    have hzero_near := h.1 0
    rw [hzero, Nat.cast_zero, sub_zero, abs_of_nonneg hx] at hzero_near
    rw [if_neg hs, sub_neg_eq_add, abs_of_nonneg (add_nonneg hx hm)]
    refine ⟨by linarith, fun hne heq => h.2 0 (fun hmag => hne ?_) ?_⟩
    · rw [← hmag, hzero, (by linarith : (u m : ℚ) = 0)]; simp
    · rw [hzero, Nat.cast_zero, sub_zero, abs_of_nonneg hx]; linarith

/-- Below the midpoint of `u p` and `u (p + 1)`, with `p` odd, the nearest pattern is at most `p`; from it on it is
above. -/
theorem NearestEven.le_iff {u : ℕ → ℕ} (hu : StrictMono u) {x : ℚ} {mag p : ℕ} (h : NearestEven u x mag)
    (hodd : p % 2 = 1) : mag ≤ p ↔ 2 * x < u p + u (p + 1) := by
  constructor
  · intro hle
    by_contra! hge
    have hmag : (u mag : ℚ) ≤ u p := by exact_mod_cast hu.monotone hle
    have hp : (u p : ℚ) < u (p + 1) := by exact_mod_cast hu p.lt_succ_self
    have hnear := h.1 (p + 1)
    rw [abs_of_nonneg (by linarith : 0 ≤ x - u mag)] at hnear
    have hlt : x < u (p + 1) + (x - u mag) := by linarith
    have htie : |x - u (p + 1)| = x - u mag ∧ (u mag : ℚ) = u p := by
      obtain hc | hc := abs_cases (x - (u (p + 1) : ℚ)) <;> constructor <;> linarith
    obtain rfl : mag = p := hu.injective (by exact_mod_cast htie.2)
    have := h.2 (mag + 1) (by exact_mod_cast hp.ne') (by rw [htie.1, abs_of_nonneg (by linarith)])
    omega
  · intro hlt
    by_contra! hgt
    have hmag : (u (p + 1) : ℚ) ≤ u mag := by exact_mod_cast hu.monotone hgt
    have hp : (u p : ℚ) < u (p + 1) := by exact_mod_cast hu p.lt_succ_self
    have hnear := h.1 p
    rw [abs_of_nonpos (by linarith : x - u mag ≤ 0)] at hnear
    obtain hc | hc := abs_cases (x - (u p : ℚ)) <;> linarith

/-- R19, R23: what `roundUnits` answers for a number `q` of magnitude `n / d` units of the value `c`, in a format whose
greatest finite pattern is `p` and whose overflow threshold is `T`. -/
theorem roundUnits_signed {frac p r : ℕ} (hfrac : 0 < frac) (hodd : p % 2 = 1) {c T : ℚ} (hc : 0 < c)
    (hT : 2 * T = (unitsOf frac p + unitsOf frac (p + 1)) * c) {s : Bool} {n d : ℕ} (hd : 0 < d) {q : ℚ}
    (hq : q = signFactor s * ((n : ℚ) / d * c)) (hr : roundUnits frac (p + 1) n d = r) :
    (|q| < T → r < p + 1 ∧ ∀ s' m,
      |q - signFactor s * (unitsOf frac r * c)| ≤ |q - signFactor s' * (unitsOf frac m * c)| ∧
        (signFactor s' * (unitsOf frac m * c) ≠ signFactor s * (unitsOf frac r * c) →
          |q - signFactor s' * (unitsOf frac m * c)| = |q - signFactor s * (unitsOf frac r * c)| → r % 2 = 0)) ∧
    (T ≤ |q| → r = p + 1 ∧ (q < 0 ↔ s = true)) := by
  obtain ⟨mag, hmag, hclamp⟩ := roundUnits_nearestEven hfrac (p + 1) n hd
  rw [hr] at hclamp
  have hx : (0 : ℚ) ≤ n / d := by positivity
  have habs : |q| = n / d * c := by
    rw [hq, abs_mul, abs_signFactor, one_mul, abs_of_nonneg (mul_nonneg hx hc.le)]
  have hfinite : mag < p + 1 ↔ |q| < T := by
    rw [Nat.lt_succ_iff, hmag.le_iff (unitsOf_strictMono frac) hodd, habs, ← mul_lt_mul_iff_left₀ hc, ← hT, mul_assoc,
      mul_lt_mul_iff_right₀ two_pos]
  have hT0 : 0 < T := by
    have : (0 : ℚ) < unitsOf frac (p + 1) := by
      exact_mod_cast (unitsOf_zero frac).symm.trans_lt (unitsOf_strictMono frac p.succ_pos)
    have : 0 < (unitsOf frac p + unitsOf frac (p + 1) : ℚ) * c := by positivity
    linarith
  refine ⟨fun h => ?_, fun h => ?_⟩
  · rw [hclamp, if_pos (hfinite.2 h), hq]
    exact ⟨hfinite.2 h, fun s' m => hmag.signed (unitsOf_zero frac) hx hc s s' m⟩
  · rw [hclamp, if_neg (fun hlt => absurd (hfinite.1 hlt) h.not_gt)]
    have hpos : 0 < (n : ℚ) / d * c := habs ▸ hT0.trans_le h
    refine ⟨rfl, ?_⟩
    cases s <;> rw [hq] <;> simp [hpos, hpos.le]

/-! ### Rounding into the two formats -/

/-- The two magnitudes around the overflow threshold of a format, the greatest finite one and the power of two
after it. -/
theorem unitsOf_around_overflow (frac t : ℕ) :
    (unitsOf frac (t * 2 ^ frac + (2 ^ (frac + 1) - 1)) + unitsOf frac (t * 2 ^ frac + (2 ^ (frac + 1) - 1) + 1) : ℚ) =
      (2 ^ (frac + 2) - 1) * 2 ^ t := by
  have hle : 2 ^ frac ≤ 2 ^ (frac + 1) - 1 := by
    have := Nat.one_le_two_pow (n := frac)
    rw [pow_succ]; omega
  have hone := Nat.one_le_two_pow (n := frac + 1)
  rw [unitsOf_exponent_significand (.inr hle) (by omega), add_assoc, Nat.sub_add_cancel hone,
    unitsOf_exponent_significand (.inr (by omega)) le_rfl]
  push_cast [hone]
  ring

theorem two_pow_mul_zpow_neg (a b : ℕ) : (2 : ℚ) ^ (a + b) * 2 ^ (-(b : ℤ)) = 2 ^ a := by
  rw [pow_add, zpow_neg, zpow_natCast, mul_assoc, mul_inv_cancel₀ (by positivity), mul_one]

theorem overflow_threshold64 :
    2 * (2 ^ 1024 - 2 ^ 970 : ℚ) =
      (unitsOf 52 (2045 * 2 ^ 52 + (2 ^ 53 - 1)) + unitsOf 52 (2045 * 2 ^ 52 + (2 ^ 53 - 1) + 1)) * unit64 := by
  have hunit : (2 : ℚ) ^ 2045 * unit64 = 2 ^ 971 := two_pow_mul_zpow_neg 971 1074
  rw [unitsOf_around_overflow 52 2045, mul_assoc, hunit, (pow_add 2 54 970 : (2 : ℚ) ^ 1024 = _),
    (pow_succ 2 970 : (2 : ℚ) ^ 971 = _)]
  generalize (2 : ℚ) ^ 970 = x
  ring

theorem overflow_threshold32 :
    2 * (2 ^ 128 - 2 ^ 103 : ℚ) =
      (unitsOf 23 (253 * 2 ^ 23 + (2 ^ 24 - 1)) + unitsOf 23 (253 * 2 ^ 23 + (2 ^ 24 - 1) + 1)) * unit32 := by
  have hunit : (2 : ℚ) ^ 253 * unit32 = 2 ^ 104 := two_pow_mul_zpow_neg 104 149
  rw [unitsOf_around_overflow 23 253, mul_assoc, hunit]
  norm_num

theorem roundUnits_le_inf (frac inf n d : ℕ) : roundUnits frac inf n d ≤ inf := by
  unfold roundUnits
  dsimp only
  split_ifs <;> omega

/-- R19: `round64` gives the correctly rounded number, in the sense of the statements. -/
theorem roundsTo64_round64 {s : Bool} {n d : ℕ} (hd : 0 < d) {q : ℚ}
    (hq : q = signFactor s * ((n : ℚ) / d * unit64)) : roundsTo64 q (round64 s n d) := by
  have hp : infMag64 = 2045 * 2 ^ 52 + (2 ^ 53 - 1) + 1 := by norm_num [infMag64]
  obtain ⟨hbelow, habove⟩ := roundUnits_signed (by norm_num) (by norm_num) unit64_pos overflow_threshold64 hd hq rfl
  rw [← hp] at hbelow habove
  rw [round64, roundsTo64]
  split
  case isTrue h =>
    obtain ⟨hlt, hnear⟩ := hbelow h
    have hmag : roundUnits 52 infMag64 n d < 2 ^ 63 := hlt.trans (by norm_num [infMag64])
    simp only [finite64_iff, getLsbD_zero64, val64_eq, units64, mag64_pack64 s hmag, neg64_pack64 s hmag]
    exact ⟨hlt, fun y _ => (hnear _ _).1, fun y _ => (hnear _ _).2⟩
  case isFalse h =>
    obtain ⟨hinf, hsign⟩ := habove (not_lt.1 h)
    simp only [hinf, hsign]
    cases s <;> rfl

/-- R23: `round32Units` gives the correctly rounded number, in the sense of the statements. -/
theorem roundsTo32_round32Units {s : Bool} {n d : ℕ} (hd : 0 < d) {q : ℚ}
    (hq : q = signFactor s * ((n : ℚ) / d * unit32)) : roundsTo32 q (round32Units s n d) := by
  have hp : infMag32 = 253 * 2 ^ 23 + (2 ^ 24 - 1) + 1 := by norm_num [infMag32]
  obtain ⟨hbelow, habove⟩ := roundUnits_signed (by norm_num) (by norm_num) unit32_pos overflow_threshold32 hd hq rfl
  rw [← hp] at hbelow habove
  rw [round32Units, roundsTo32]
  split
  case isTrue h =>
    obtain ⟨hlt, hnear⟩ := hbelow h
    have hmag : roundUnits 23 infMag32 n d < 2 ^ 31 := hlt.trans (by norm_num [infMag32])
    simp only [finite32_iff, getLsbD_zero32, val32_eq, units32, mag32_pack32 s hmag, neg32_pack32 s hmag]
    exact ⟨hlt, fun y _ => (hnear _ _).1, fun y _ => (hnear _ _).2⟩
  case isFalse h =>
    obtain ⟨hinf, hsign⟩ := habove (not_lt.1 h)
    simp only [hinf, hsign]
    cases s <;> rfl

end Sys2Proof.Machine
end

section
/-!
PROOF. The arithmetic of finite and infinite operands and the conversions (00_scope.md R19, R22, R23, 40_common.md R154).
-/

namespace Sys2Proof.Machine

/-! ### The parts of special patterns -/

@[simp] theorem isNaN64_of_finite64 {v : B64} (h : finite64 v) : isNaN64 v = false := by
  rw [finite64_iff] at h
  simp [isNaN64, h.le]

@[simp] theorem isInf64_of_finite64 {v : B64} (h : finite64 v) : isInf64 v = false := by
  rw [finite64_iff] at h
  simp [isInf64, h.ne]

@[simp] theorem mag64_inf64 (s : Bool) : mag64 (inf64 s) = infMag64 := by cases s <;> rfl
@[simp] theorem neg64_inf64 (s : Bool) : neg64 (inf64 s) = s := by cases s <;> rfl
@[simp] theorem isNaN64_inf64 (s : Bool) : isNaN64 (inf64 s) = false := by simp [isNaN64]
@[simp] theorem isInf64_inf64 (s : Bool) : isInf64 (inf64 s) = true := by simp [isInf64]
@[simp] theorem isZero64_inf64 (s : Bool) : isZero64 (inf64 s) = false := by simp [isZero64, infMag64]

theorem pack64_zero (s : Bool) : pack64 s 0 = if s then 0x8000000000000000 else 0 := by cases s <;> rfl

@[simp] theorem neg64_flipSign64 (v : B64) : neg64 (flipSign64 v) = !neg64 v := by
  rw [neg64, flipSign64, BitVec.msb_xor, ← neg64]
  exact Bool.xor_true _

@[simp] theorem mag64_flipSign64 (v : B64) : mag64 (flipSign64 v) = mag64 v := by
  have h : ∀ x : B64, mag64 x = (x.extractLsb' 0 63).toNat := fun x => by simp [mag64, BitVec.extractLsb'_toNat]
  rw [h, h, flipSign64, BitVec.extractLsb'_xor]
  simp

theorem flipSign64_inf64 (s : Bool) : flipSign64 (inf64 s) = inf64 (!s) := by cases s <;> rfl

theorem finite64_flipSign64 {v : B64} (h : finite64 v) : finite64 (flipSign64 v) := by
  rwa [finite64_iff, mag64_flipSign64, ← finite64_iff]

theorem units64_flipSign64 (v : B64) : units64 (flipSign64 v) = units64 v := by
  rw [units64, mag64_flipSign64, ← units64]

theorem val64_flipSign64 (v : B64) : val64 (flipSign64 v) = -val64 v := by
  rw [val64_eq, val64_eq, units64_flipSign64, neg64_flipSign64, signFactor_not, neg_mul]

theorem val64_eq_signedUnits64 (v : B64) : val64 v = signedUnits64 v * unit64 := by
  rw [val64_eq, signedUnits64]
  cases neg64 v <;> simp

theorem units64_eq_zero {v : B64} : units64 v = 0 ↔ mag64 v = 0 := by
  exact (unitsOf_strictMono 52).injective.eq_iff' (unitsOf_zero 52)

theorem val64_eq_zero {v : B64} : val64 v = 0 ↔ mag64 v = 0 := by
  rw [val64_eq, ← units64_eq_zero]
  simp [signFactor_ne_zero, unit64_pos.ne']

theorem isZero64_eq_decide (v : B64) : isZero64 v = decide (val64 v = 0) := by
  simp [isZero64, val64_eq_zero]

@[simp] theorem neg64_round64 (s : Bool) (n d : ℕ) : neg64 (round64 s n d) = s :=
  neg64_pack64 s ((roundUnits_le_inf ..).trans_lt (by norm_num [infMag64]))

@[simp] theorem round64_zero (s : Bool) (d : ℕ) : round64 s 0 d = pack64 s 0 := by
  simp [round64, roundUnits, infMag64]

/-! ### Sums -/

theorem eq_signFactor_mul_abs (q : ℚ) : q = signFactor (decide (q < 0)) * |q| := by
  obtain h | h := lt_or_ge q 0
  · simp [h, abs_of_neg]
  · simp [h.not_gt, abs_of_nonneg h]

theorem val64_add (a b : B64) : val64 a + val64 b = (signedUnits64 a + signedUnits64 b : ℤ) * unit64 := by
  rw [val64_eq_signedUnits64, val64_eq_signedUnits64]; push_cast; ring

/-- R19: the exact sum, rounded once; the sign of an exact zero. -/
theorem fadd_of_finite {a b : B64} (ha : finite64 a) (hb : finite64 b) :
    fadd a b = if val64 a + val64 b = 0 then pack64 (neg64 a && neg64 b) 0
      else round64 (decide (val64 a + val64 b < 0)) (signedUnits64 a + signedUnits64 b).natAbs 1 := by
  have hzero : val64 a + val64 b = 0 ↔ signedUnits64 a + signedUnits64 b = 0 := by
    rw [val64_add, mul_eq_zero, or_iff_left unit64_pos.ne']; norm_cast
  have hneg : val64 a + val64 b < 0 ↔ signedUnits64 a + signedUnits64 b < 0 := by
    rw [val64_add, ← zero_mul unit64, mul_lt_mul_iff_left₀ unit64_pos]; norm_cast
  simp only [fadd, isNaN64_of_finite64 ha, isNaN64_of_finite64 hb, isInf64_of_finite64 ha, isInf64_of_finite64 hb, hzero,
    hneg, Bool.or_self, Bool.false_eq_true, if_false]

theorem roundsTo64_fadd {a b : B64} (ha : finite64 a) (hb : finite64 b) :
    roundsTo64 (val64 a + val64 b) (fadd a b) := by
  rw [fadd_of_finite ha hb]
  split
  case isTrue h =>
    rw [h, ← round64_zero _ 1]
    exact roundsTo64_round64 one_pos (by simp)
  case isFalse h =>
    refine roundsTo64_round64 one_pos ?_
    have habs : |val64 a + val64 b| = (signedUnits64 a + signedUnits64 b).natAbs * unit64 := by
      rw [val64_add, abs_mul, abs_of_pos unit64_pos, Nat.cast_natAbs, Int.cast_abs]
    rw [Nat.cast_one, div_one, ← habs]
    exact eq_signFactor_mul_abs _

theorem fsub_eq_fadd_flipSign64 (a b : B64) : fsub a b = fadd a (flipSign64 b) := rfl

theorem fadd_inf64_right {a : B64} (ha : finite64 a) (m : Bool) : fadd a (inf64 m) = inf64 m := by
  simp [fadd, ha]

theorem fadd_inf64_left {a : B64} (ha : finite64 a) (m : Bool) : fadd (inf64 m) a = inf64 m := by
  simp [fadd, ha]

theorem fadd_inf64_inf64 (m n : Bool) : fadd (inf64 m) (inf64 n) = if m = n then inf64 m else nan64 := by
  cases m <;> cases n <;> rfl

/-- Settles O56: an exact sum is rounded once, a difference is the sum with the second sign flipped. -/
theorem sumsAreCorrectlyRounded : Obligations.SumsAreCorrectlyRounded := by
  refine ⟨fun a b ha hb => ?_, fun a m ha => ?_, fun m n => ?_⟩
  · have hb' := finite64_flipSign64 hb
    have hsub : val64 a - val64 b = val64 a + val64 (flipSign64 b) := by rw [val64_flipSign64, sub_eq_add_neg]
    refine ⟨roundsTo64_fadd ha hb, hsub ▸ roundsTo64_fadd ha hb', fun h => ?_, fun h => ?_⟩
    · rw [fadd_of_finite ha hb, if_pos h, pack64_zero, getLsbD_sign64, getLsbD_sign64]
    · rw [fsub_eq_fadd_flipSign64, fadd_of_finite ha hb', if_pos (hsub ▸ h), pack64_zero, neg64_flipSign64,
        getLsbD_sign64, getLsbD_sign64]
  · simp only [fsub_eq_fadd_flipSign64, flipSign64_inf64]
    exact ⟨fadd_inf64_right ha m, fadd_inf64_left ha m, fadd_inf64_right ha _,
      fadd_inf64_left (finite64_flipSign64 ha) m⟩
  · rw [fsub_eq_fadd_flipSign64, flipSign64_inf64, fadd_inf64_inf64, fadd_inf64_inf64]
    exact ⟨rfl, by cases m <;> cases n <;> rfl⟩

/-! ### Products and quotients -/

theorem fmul_of_finite {a b : B64} (ha : finite64 a) (hb : finite64 b) :
    fmul a b = round64 (neg64 a != neg64 b) (units64 a * units64 b) (1 <<< 1074) := by
  simp [fmul, ha, hb]

theorem fdiv_of_finite {a b : B64} (ha : finite64 a) (hb : finite64 b) :
    fdiv a b = if val64 b = 0 then if val64 a = 0 then nan64 else pack64 (neg64 a != neg64 b) infMag64
      else round64 (neg64 a != neg64 b) (units64 a <<< 1074) (units64 b) := by
  simp [fdiv, ha, hb, isZero64_eq_decide]

theorem cast_shiftLeft (n k : ℕ) : ((n <<< k : ℕ) : ℚ) = n * 2 ^ k := by
  rw [Nat.shiftLeft_eq, Nat.cast_mul, Nat.cast_pow, Nat.cast_ofNat]

theorem one_shiftLeft_pos (k : ℕ) : 0 < 1 <<< k := by
  rw [Nat.one_shiftLeft]; positivity

theorem two_pow_mul_unit64 : (2 : ℚ) ^ 1074 * unit64 = 1 := two_pow_mul_zpow_neg 0 1074

theorem roundsTo64_fmul {a b : B64} (ha : finite64 a) (hb : finite64 b) :
    roundsTo64 (val64 a * val64 b) (fmul a b) := by
  have hunit : unit64 = ((1 <<< 1074 : ℕ) : ℚ)⁻¹ := by
    rw [cast_shiftLeft, Nat.cast_one, one_mul]; exact eq_inv_of_mul_eq_one_right two_pow_mul_unit64
  rw [fmul_of_finite ha hb]
  refine roundsTo64_round64 (one_shiftLeft_pos _) ?_
  rw [val64_eq, val64_eq, signFactor_xor, Nat.cast_mul, div_eq_mul_inv, ← hunit]
  ring

theorem roundsTo64_fdiv {a b : B64} (ha : finite64 a) (hb : finite64 b) (h0 : val64 b ≠ 0) :
    roundsTo64 (val64 a / val64 b) (fdiv a b) := by
  have hunits : units64 b ≠ 0 := fun h => h0 (by rw [val64_eq, h]; simp)
  have hunits' : (units64 b : ℚ) ≠ 0 := by exact_mod_cast hunits
  rw [fdiv_of_finite ha hb, if_neg h0]
  refine roundsTo64_round64 (Nat.pos_of_ne_zero hunits) ?_
  rw [div_eq_iff h0, cast_shiftLeft, signFactor_xor]
  calc val64 a = signFactor (neg64 a) * (units64 a * unit64) * (signFactor (neg64 b) * signFactor (neg64 b)) := by
        rw [val64_eq]; cases neg64 b <;> simp
    _ = signFactor (neg64 a) * (units64 a * unit64) * (signFactor (neg64 b) * signFactor (neg64 b)) *
          ((2 ^ 1074 * unit64) * (units64 b / units64 b)) := by
        rw [two_pow_mul_unit64, div_self hunits', mul_one, mul_one]
    _ = _ := by
        rw [val64_eq b]
        generalize (2 : ℚ) ^ 1074 = two
        ring

/-- Settles O57: an exact product or quotient is rounded once, with the sign of the operands' signs. -/
theorem productsAreCorrectlyRounded : Obligations.ProductsAreCorrectlyRounded := by
  simp only [Obligations.ProductsAreCorrectlyRounded, getLsbD_sign64]
  refine ⟨fun a b ha hb => ?_, fun a m ha => ?_, fun m n => ?_⟩
  · refine ⟨roundsTo64_fmul ha hb, by simp [fmul_of_finite ha hb], fun h => ⟨roundsTo64_fdiv ha hb h, ?_⟩, fun h => ?_⟩
    · simp [fdiv_of_finite ha hb, h]
    · rw [fdiv_of_finite ha hb, if_pos h, inf64_eq_pack64]; rfl
  · refine ⟨?_, ?_, ?_, ?_⟩
    · simp [fmul, ha, isZero64_eq_decide a, ← inf64_eq_pack64, nan64]
    · simp [fmul, ha, isZero64_eq_decide a, ← inf64_eq_pack64, nan64, bne_comm (a := m)]
    · simp [fdiv, ha, pack64_zero]
    · simp [fdiv, ha, ← inf64_eq_pack64, bne_comm (a := m)]
  · cases m <;> cases n <;> exact ⟨rfl, rfl⟩

/-! ### Exact results -/

theorem abs_val64_lt {v : B64} (h : finite64 v) : |val64 v| < 2 ^ 1024 - 2 ^ 970 := by
  have hmax : units64 v ≤ unitsOf 52 (2045 * 2 ^ 52 + (2 ^ 53 - 1)) :=
    (unitsOf_strictMono 52).monotone (Nat.le_of_lt_succ ((finite64_iff v).1 h))
  have hnext := unitsOf_strictMono 52 (lt_add_one (2045 * 2 ^ 52 + (2 ^ 53 - 1)))
  rw [← mul_lt_mul_iff_right₀ (two_pos : (0 : ℚ) < 2), overflow_threshold64, val64_eq, abs_mul, abs_signFactor, one_mul,
    abs_of_nonneg (mul_nonneg (Nat.cast_nonneg _) unit64_pos.le), ← mul_assoc]
  refine mul_lt_mul_of_pos_right ?_ unit64_pos
  exact_mod_cast (by omega : 2 * units64 v < _)

/-- A number that a finite datum has exactly is rounded to that number. -/
theorem roundsTo64.eq_of_exact {y r : B64} (hy : finite64 y) (h : roundsTo64 (val64 y) r) :
    finite64 r ∧ val64 r = val64 y := by
  rw [roundsTo64, if_pos (abs_val64_lt hy)] at h
  obtain ⟨hr, hnear, -⟩ := h
  have := hnear y hy
  rw [sub_self, abs_zero, abs_nonpos_iff, sub_eq_zero] at this
  exact ⟨hr, this.symm⟩

theorem mul_two_pow_lt {n e k l : ℕ} (hn : n ≤ 2 ^ k) (he : e < l) : n * 2 ^ e < 2 ^ k * 2 ^ l :=
  Nat.mul_lt_mul_of_le_of_lt hn (Nat.pow_lt_pow_right one_lt_two he) (by positivity)

theorem unitsOf_infMag64 : unitsOf 52 infMag64 = 2 ^ 53 * 2 ^ 2045 := by
  rw [(by norm_num [infMag64] : infMag64 = 2045 * 2 ^ 52 + 2 ^ 53),
    unitsOf_exponent_significand (.inr (by norm_num)) (by norm_num)]

/-- A number of 53 significant bits above the smallest subnormal is the value of a pattern. -/
theorem exists_finite64 (s : Bool) {n e : ℕ} (hn : n ≤ 2 ^ 53) (he : e < 2045) :
    ∃ y, finite64 y ∧ val64 y = signFactor s * ((n * 2 ^ e : ℕ) * unit64) := by
  obtain ⟨m, hm⟩ := exists_unitsOf 52 hn e
  have hlt : m < infMag64 := by
    rw [← (unitsOf_strictMono 52).lt_iff_lt, hm, unitsOf_infMag64]
    exact mul_two_pow_lt hn he
  have hlt63 : m < 2 ^ 63 := hlt.trans (by norm_num [infMag64])
  refine ⟨pack64 s m, by rwa [finite64_iff, mag64_pack64 s hlt63], ?_⟩
  rw [val64_eq, neg64_pack64 s hlt63, units64, mag64_pack64 s hlt63, hm]

/-! ### Conversions -/

theorem widen_of_finite {v : B32} (h : finite32 v) : widen v = round64 (neg32 v) (units32 v <<< 925) 1 := by
  rw [finite32_iff] at h
  simp [widen, isNaN32, isInf32, h.le, h.ne]

theorem round32_of_finite {v : B64} (h : finite64 v) : round32 v = round32Units (neg64 v) (units64 v) (1 <<< 925) := by
  simp [round32, h]

theorem unit32_eq : unit32 = 2 ^ 925 * unit64 := by
  rw [unit32, unit64, ← zpow_natCast, ← zpow_add₀ two_ne_zero]
  rfl

/-- R22: a finite `b32` is a number of 24 significant bits. -/
theorem exists_finite64_eq_val32 {v : B32} (h : finite32 v) : ∃ y, finite64 y ∧ val64 y = val32 v := by
  rw [finite32_iff, infMag32] at h
  obtain ⟨t, q, hm, hnormal, hq⟩ := exists_exponent_significand 23 (mag32 v)
  have hunits : units32 v = q * 2 ^ t := by rw [units32, hm, unitsOf_exponent_significand hnormal hq.le]
  obtain ⟨y, hy, hval⟩ := exists_finite64 (neg32 v) (e := t + 925) (hq.le.trans (by norm_num)) (by omega)
  refine ⟨y, hy, ?_⟩
  rw [hval, val32_eq, hunits, unit32_eq, pow_add, ← mul_assoc q, Nat.cast_mul (q * 2 ^ t),
    Nat.cast_pow, Nat.cast_ofNat, mul_assoc _ (2 ^ 925)]

theorem widen_exact {v : B32} (h : finite32 v) : finite64 (widen v) ∧ val64 (widen v) = val32 v := by
  obtain ⟨y, hy, hval⟩ := exists_finite64_eq_val32 h
  rw [← hval, widen_of_finite h]
  refine roundsTo64.eq_of_exact hy (roundsTo64_round64 one_pos ?_)
  rw [hval, val32_eq, unit32_eq, cast_shiftLeft, Nat.cast_one, div_one, mul_assoc]

theorem roundsTo32_round32 {v : B64} (h : finite64 v) : roundsTo32 (val64 v) (round32 v) := by
  rw [round32_of_finite h]
  refine roundsTo32_round32Units (one_shiftLeft_pos _) ?_
  rw [val64_eq, unit32_eq, cast_shiftLeft, Nat.cast_one, one_mul, ← mul_assoc (_ / _), div_mul_cancel₀ _ (by positivity)]

/-- R154: a count of 53 bits is converted exactly. -/
theorem natToB64_exact {n : ℕ} (hn : n < 2 ^ 53) : finite64 (natToB64 n) ∧ val64 (natToB64 n) = n := by
  obtain ⟨y, hy, hval⟩ := exists_finite64 false (e := 1074) hn.le (by norm_num)
  have hn' : val64 y = n := by
    rw [hval, Nat.cast_mul, Nat.cast_pow, Nat.cast_ofNat, mul_assoc, two_pow_mul_unit64, mul_one, signFactor_false,
      one_mul]
  rw [← hn', natToB64]
  refine roundsTo64.eq_of_exact hy (roundsTo64_round64 one_pos ?_)
  rw [hval, cast_shiftLeft, Nat.cast_mul, Nat.cast_pow, Nat.cast_ofNat, Nat.cast_one, div_one]

@[simp] theorem neg32_round32Units (s : Bool) (n d : ℕ) : neg32 (round32Units s n d) = s :=
  neg32_pack32 s ((roundUnits_le_inf ..).trans_lt (by norm_num [infMag32]))

/-- Settles O58: each conversion of a finite datum is one rounding, `widen` and small counts of an exact value. -/
theorem conversionsAreCorrectlyRounded : Obligations.ConversionsAreCorrectlyRounded := by
  simp only [Obligations.ConversionsAreCorrectlyRounded, getLsbD_sign64, getLsbD_sign32]
  refine ⟨fun v h => ⟨(widen_exact h).1, (widen_exact h).2, ?_⟩, rfl, rfl, fun v h => ?_,
    fun v h => ⟨roundsTo32_round32 h, ?_⟩, rfl, rfl, fun v h => ?_, fun n => natToB64_exact⟩
  · rw [widen_of_finite h, neg64_round64]
  · simp [widen, isNaN32, (nanPattern32_iff v).1 h, nan64]
  · rw [round32_of_finite h, neg32_round32Units]
  · simp [round32, isNaN64, (nanPattern64_iff v).1 h, nan32]

end Sys2Proof.Machine
end

section
/-!
PROOF. NaN results and comparisons (00_scope.md R21, R24, R25, R26).
-/

namespace Sys2Proof.Machine

/-! ### NaN results -/

theorem isNaN64_iff (v : B64) : isNaN64 v = true ↔ nanPattern64 v := by
  rw [nanPattern64_iff, isNaN64, decide_eq_true_iff]

theorem isNaN64_pack64 {m : ℕ} (s : Bool) (hm : m ≤ infMag64) : isNaN64 (pack64 s m) = false := by
  rw [isNaN64, mag64_pack64 s (hm.trans_lt (by norm_num [infMag64])), decide_eq_false_iff_not]
  exact hm.not_gt

theorem isNaN64_round64 (s : Bool) (n d : ℕ) : isNaN64 (round64 s n d) = false :=
  isNaN64_pack64 s (roundUnits_le_inf ..)

/-- R21: `r` is no NaN but the canonical one. -/
def CanonicalNaN (r : B64) : Prop := isNaN64 r = true → r = nan64

theorem canonicalNaN_nan64 : CanonicalNaN nan64 := fun _ => rfl

theorem CanonicalNaN.of_not_nan {r : B64} (h : isNaN64 r = false) : CanonicalNaN r := fun h' => by simp [h] at h'

theorem canonicalNaN_pack64 {m : ℕ} (s : Bool) (hm : m ≤ infMag64) : CanonicalNaN (pack64 s m) :=
  .of_not_nan (isNaN64_pack64 s hm)

theorem canonicalNaN_fadd (a b : B64) : CanonicalNaN (fadd a b) := by
  unfold fadd
  split
  case isTrue => exact canonicalNaN_nan64
  case isFalse h =>
    obtain ⟨ha, hb⟩ : isNaN64 a = false ∧ isNaN64 b = false := by simpa using h
    dsimp only
    split_ifs
    · exact canonicalNaN_nan64
    · exact .of_not_nan ha
    · exact .of_not_nan hb
    · exact canonicalNaN_pack64 _ (Nat.zero_le _)
    · exact .of_not_nan (isNaN64_round64 ..)

theorem canonicalNaN_fmul (a b : B64) : CanonicalNaN (fmul a b) := by
  unfold fmul
  split_ifs
  · exact canonicalNaN_nan64
  · exact canonicalNaN_nan64
  · exact canonicalNaN_pack64 _ le_rfl
  · exact .of_not_nan (isNaN64_round64 ..)

theorem canonicalNaN_fdiv (a b : B64) : CanonicalNaN (fdiv a b) := by
  unfold fdiv
  split_ifs
  · exact canonicalNaN_nan64
  · exact canonicalNaN_nan64
  · exact canonicalNaN_pack64 _ le_rfl
  · exact canonicalNaN_pack64 _ (Nat.zero_le _)
  · exact canonicalNaN_nan64
  · exact canonicalNaN_pack64 _ le_rfl
  · exact .of_not_nan (isNaN64_round64 ..)

theorem canonicalNaN_fmax (a b : B64) : CanonicalNaN (fmax a b) := by
  unfold fmax
  split
  case isTrue => exact canonicalNaN_nan64
  case isFalse h =>
    obtain ⟨ha, hb⟩ : isNaN64 a = false ∧ isNaN64 b = false := by simpa using h
    split
    · exact .of_not_nan ha
    · exact .of_not_nan hb

theorem canonicalNaN_fabs (a : B64) : CanonicalNaN (fabs a) := by
  unfold fabs
  split
  case isTrue => exact canonicalNaN_nan64
  case isFalse h =>
    refine canonicalNaN_pack64 _ (not_lt.1 fun hlt => h ?_)
    rwa [isNaN64, decide_eq_true_iff]

/-- R24: the pattern without its sign is the pattern with bit 63 cleared. -/
theorem pack64_false_mag64 (a : B64) : pack64 false (mag64 a) = a &&& 0x7FFFFFFFFFFFFFFF := by
  apply BitVec.eq_of_toNat_eq
  have hmask : (0x7FFFFFFFFFFFFFFF : B64).toNat = 2 ^ 63 - 1 := rfl
  rw [BitVec.toNat_and, hmask, Nat.and_two_pow_sub_one_eq_mod, toNat_eq_sign_mag64 (pack64 _ _),
    neg64_pack64 _ (mag64_lt a), mag64_pack64 _ (mag64_lt a)]
  simp [mag64]

/-! ### The order -/

/-- R26: the order of the patterns is the order of the values. -/
theorem order64_lt_iff (a b : B64) : order64 a < order64 b ↔ val64 a < val64 b := by
  have hlt : ∀ x y : B64, units64 x < units64 y ↔ mag64 x < mag64 y := fun x y => (unitsOf_strictMono 52).lt_iff_lt
  have hzero : ∀ x : B64, units64 x = 0 ↔ mag64 x = 0 := fun x => units64_eq_zero
  rw [val64_eq_signedUnits64, val64_eq_signedUnits64, mul_lt_mul_iff_left₀ unit64_pos, Int.cast_lt]
  have hab := hlt a b
  have hba := hlt b a
  have ha := hzero a
  have hb := hzero b
  simp only [order64, signedUnits64]
  cases neg64 a <;> cases neg64 b <;> simp <;> omega

theorem order64_le_iff (a b : B64) : order64 a ≤ order64 b ↔ val64 a ≤ val64 b := by
  rw [← not_lt, ← not_lt, order64_lt_iff]

theorem order64_eq_iff (a b : B64) : order64 a = order64 b ↔ val64 a = val64 b := by
  rw [le_antisymm_iff, le_antisymm_iff, order64_le_iff, order64_le_iff]

theorem order64_inf64 (m : Bool) : order64 (inf64 m) = if m then -(infMag64 : ℤ) else infMag64 := by
  simp [order64]

theorem order64_bounds {a : B64} (h : finite64 a) : -(infMag64 : ℤ) < order64 a ∧ order64 a < infMag64 := by
  rw [finite64_iff] at h
  rw [order64]
  split <;> omega

/-- Settles O59: NaN results are canonical, and the comparisons compare the places of the patterns, which follow the
values. -/
theorem naNsAndComparisons : Obligations.NaNsAndComparisons := by
  simp only [Obligations.NaNsAndComparisons, ← isNaN64_iff]
  refine ⟨fun a b r hr hnan => ?_, fun a b h => ?_, fun a => ?_, fun a b ha hb => ?_, fun a b ha hb => ?_,
    fun a m ha => ?_, fun m n => ?_⟩
  · have hall : ∀ x ∈ [fadd a b, fsub a b, fmul a b, fdiv a b, fmax a b, fabs a], CanonicalNaN x := by
      simp only [List.forall_mem_cons, List.not_mem_nil, false_imp_iff, implies_true, and_true]
      exact ⟨canonicalNaN_fadd a b, canonicalNaN_fadd a _, canonicalNaN_fmul a b, canonicalNaN_fdiv a b,
        canonicalNaN_fmax a b, canonicalNaN_fabs a⟩
    exact hall r hr hnan
  · have hor : (isNaN64 a || isNaN64 b) = true := by simpa using h
    have hflip : isNaN64 (flipSign64 b) = isNaN64 b := by rw [isNaN64, mag64_flipSign64, ← isNaN64]
    have hcmp : (!isNaN64 a && !isNaN64 b) = false := by rw [← Bool.not_or, hor]; rfl
    have hcmp' : (!isNaN64 b && !isNaN64 a) = false := by rw [Bool.and_comm, hcmp]
    simp [fadd, fsub, fmul, fdiv, fmax, flt, fle, fgt, fge, feq, hflip, hor, hcmp, hcmp', nan64]
  · have hpattern : a.extractLsb' 52 11 = 0x7FF ∧ a.extractLsb' 0 52 ≠ 0 ↔ isNaN64 a = true := (isNaN64_iff a).symm
    simp only [fabs, hpattern, pack64_false_mag64]
    rfl
  · simp_all [fmax]
  · simp [flt, fle, fgt, fge, feq, ha, hb, order64_lt_iff, order64_le_iff, order64_eq_iff]
  · obtain ⟨hlo, hhi⟩ := order64_bounds ha
    have hpos : (0 : ℤ) < infMag64 := by norm_num [infMag64]
    cases m <;> simp [flt, fle, fgt, fge, feq, ha, order64_inf64] <;> omega
  · cases m <;> cases n <;> decide

end Sys2Proof.Machine
end

section
/-!
PROOF. The digits of a fixed-point logarithm and the decimal exponent (00_scope.md R27).
-/

namespace Sys2Proof.Machine

/-! ### Fixed-point logarithms -/

/-- The decimal logarithm of a number at the fixed-point place. -/
noncomputable def fixedLog (r : ℝ) : ℝ := Real.logb 10 (r / 2 ^ logPlace)

theorem fixedLog_mono {r s : ℝ} (hr : 0 < r) (h : r ≤ s) : fixedLog r ≤ fixedLog s := by
  unfold fixedLog
  gcongr
  norm_num

theorem fixedLog_place : fixedLog (2 ^ logPlace) = 0 := by
  rw [fixedLog, div_self (by positivity), Real.logb_one]

theorem fixedLog_div_ten {r : ℝ} (hr : 0 < r) : fixedLog (r / 10) = fixedLog r - 1 := by
  rw [fixedLog, fixedLog, div_right_comm, Real.logb_div (by positivity) (by norm_num),
    Real.logb_self_eq_one (by norm_num)]

theorem fixedLog_ten_places : fixedLog (10 * 2 ^ logPlace) = 1 := by
  have h := fixedLog_div_ten (r := 10 * 2 ^ logPlace) (by positivity)
  rw [mul_div_cancel_left₀ _ (by norm_num), fixedLog_place] at h
  linarith

theorem fixedLog_square {r : ℝ} (hr : 0 < r) : fixedLog (r * r / 2 ^ logPlace) = 2 * fixedLog r := by
  rw [fixedLog, mul_div_assoc, mul_div_right_comm, Real.logb_mul (by positivity) (by positivity), fixedLog, two_mul]

theorem one_le_log_ten : 1 ≤ Real.log 10 := by
  rw [Real.le_log_iff_exp_le (by norm_num)]
  linarith [Real.exp_one_lt_d9]

/-- Rounding down a number of at least one place changes its logarithm by at most one unit of the place. -/
theorem fixedLog_truncate {n : ℕ} {r : ℝ} (hn : 2 ^ logPlace ≤ n) (hlo : n ≤ r) (hhi : r ≤ n + 1) :
    fixedLog n ≤ fixedLog r ∧ fixedLog r ≤ fixedLog n + 1 / 2 ^ logPlace := by
  have hn' : (2 : ℝ) ^ logPlace ≤ n := by exact_mod_cast hn
  have hpos : (0 : ℝ) < n := lt_of_lt_of_le (by positivity) hn'
  refine ⟨fixedLog_mono hpos hlo, ?_⟩
  have hratio : r / 2 ^ logPlace = n / 2 ^ logPlace * (r / n) := by field_simp
  have hr : 0 < r := hpos.trans_le hlo
  have hlog : Real.logb 10 (r / n) ≤ 1 / 2 ^ logPlace := by
    have hle : r / n - 1 ≤ 1 / 2 ^ logPlace := by
      calc r / n - 1 = (r - n) / n := by field_simp
        _ ≤ 1 / 2 ^ logPlace := by gcongr; linarith
    have hlog0 : 0 ≤ Real.log (r / n) := Real.log_nonneg (by rwa [le_div_iff₀ hpos, one_mul])
    calc Real.logb 10 (r / n) ≤ Real.log (r / n) := div_le_self hlog0 one_le_log_ten
      _ ≤ r / n - 1 := Real.log_le_sub_one_of_pos (by positivity)
      _ ≤ _ := hle
  rw [fixedLog, hratio, Real.logb_mul (by positivity) (by positivity), ← fixedLog]
  linarith

theorem natDiv_bounds (a : ℕ) {b : ℕ} (hb : 0 < b) : ((a / b : ℕ) : ℝ) ≤ a / b ∧ (a : ℝ) / b ≤ (a / b : ℕ) + 1 := by
  refine ⟨Nat.cast_div_le, ?_⟩
  rw [div_le_iff₀ (by exact_mod_cast hb)]
  rw [mul_comm]
  exact_mod_cast (Nat.lt_mul_div_succ a hb).le

/-! ### The digits -/

/-- A shift as a division by a power of the monoid `ℕ`: for a fixed-point place too large to be evaluated. -/
theorem shiftRight_eq_div_two_pow (a k : ℕ) : a >>> k = a / 2 ^ k := Nat.shiftRight_eq_div_pow a k

theorem shiftLeft_eq_mul_two_pow (a k : ℕ) : a <<< k = a * 2 ^ k := Nat.shiftLeft_eq a k

/-- The square of a number between one and ten, rounded down. -/
theorem fixedLog_square_down {m : ℕ} (hlo : 2 ^ logPlace ≤ m) (hhi : m < 10 * 2 ^ logPlace) :
    2 ^ logPlace ≤ m * m / 2 ^ logPlace ∧ m * m / 2 ^ logPlace < 10 * (10 * 2 ^ logPlace) ∧
      fixedLog (m * m / 2 ^ logPlace : ℕ) ≤ 2 * fixedLog m ∧
      2 * fixedLog m ≤ fixedLog (m * m / 2 ^ logPlace : ℕ) + 1 / 2 ^ logPlace := by
  have hP : 0 < 2 ^ logPlace := by positivity
  have hm0 : (0 : ℝ) < m := by exact_mod_cast hP.trans_le hlo
  have hsq_lo : 2 ^ logPlace ≤ m * m / 2 ^ logPlace := by
    rw [Nat.le_div_iff_mul_le hP]
    exact Nat.mul_le_mul hlo hlo
  have hsq_hi : m * m / 2 ^ logPlace < 10 * (10 * 2 ^ logPlace) := by
    rw [Nat.div_lt_iff_lt_mul hP]
    calc m * m < (10 * 2 ^ logPlace) * (10 * 2 ^ logPlace) := Nat.mul_lt_mul'' hhi hhi
      _ = _ := by ring
  obtain ⟨hle, hge⟩ := natDiv_bounds (m * m) hP
  rw [Nat.cast_mul, Nat.cast_pow, Nat.cast_ofNat] at hle hge
  rw [← fixedLog_square hm0]
  exact ⟨hsq_lo, hsq_hi, fixedLog_truncate hsq_lo hle hge⟩

/-- A tenth of a number of at least ten, rounded down. -/
theorem fixedLog_tenth_down {n : ℕ} (hlo : 10 * 2 ^ logPlace ≤ n) :
    2 ^ logPlace ≤ n / 10 ∧ fixedLog (n / 10 : ℕ) ≤ fixedLog n - 1 ∧
      fixedLog n - 1 ≤ fixedLog (n / 10 : ℕ) + 1 / 2 ^ logPlace := by
  have hn0 : (0 : ℝ) < n := by exact_mod_cast (by positivity : 0 < 10 * 2 ^ logPlace).trans_le hlo
  have htenth : 2 ^ logPlace ≤ n / 10 := by rwa [Nat.le_div_iff_mul_le (by norm_num), mul_comm]
  obtain ⟨hle, hge⟩ := natDiv_bounds n (b := 10) (by norm_num)
  rw [← fixedLog_div_ten hn0]
  exact ⟨htenth, fixedLog_truncate htenth (by exact_mod_cast hle) (by exact_mod_cast hge)⟩

/-- R27: the digits computed by rounding down are below the logarithm, by less than one unit and the rounding errors. -/
theorem logDown_bounds (k m acc : ℕ) (hlo : 2 ^ logPlace ≤ m) (hhi : m < 10 * 2 ^ logPlace) :
    (logDown k m acc : ℝ) ≤ 2 ^ k * (acc + fixedLog m) ∧
      2 ^ k * (acc + fixedLog m) ≤ logDown k m acc + 1 + (2 ^ k - 1) * (2 * (1 / 2 ^ logPlace)) := by
  induction k generalizing m acc with
  | zero =>
    have h0 : 0 ≤ fixedLog m := fixedLog_place ▸ fixedLog_mono (by positivity) (by exact_mod_cast hlo)
    have hpos : (0 : ℝ) < m := by exact_mod_cast (by positivity : 0 < 2 ^ logPlace).trans_le hlo
    have h1 : fixedLog m ≤ 1 := fixedLog_ten_places ▸ fixedLog_mono hpos (by exact_mod_cast hhi.le)
    simp only [logDown]
    constructor <;> linarith
  | succ k ih =>
    obtain ⟨hsq_lo, hsq_hi, hlog_le, hle_log⟩ := fixedLog_square_down hlo hhi
    simp only [logDown, shiftRight_eq_div_two_pow, shiftLeft_eq_mul_two_pow]
    generalize m * m / 2 ^ logPlace = sq at *
    have hK : (0 : ℝ) ≤ 2 ^ k := by positivity
    have hKδ := mul_nonneg hK (by positivity : (0 : ℝ) ≤ 1 / 2 ^ logPlace)
    have hpow : (2 : ℝ) ^ (k + 1) = 2 * 2 ^ k := pow_succ' 2 k
    have hKle := mul_le_mul_of_nonneg_left hlog_le hK
    have hKge := mul_le_mul_of_nonneg_left hle_log hK
    rw [hpow]
    split
    case isTrue hlt =>
      obtain ⟨h1, h2⟩ := ih sq (2 * acc) hsq_lo hlt
      push_cast at h1 h2 ⊢
      constructor <;> linarith
    case isFalse hge =>
      obtain ⟨htenth, hten_le, hle_ten⟩ := fixedLog_tenth_down (not_lt.1 hge)
      obtain ⟨h1, h2⟩ := ih (sq / 10) (2 * acc + 1) htenth (Nat.div_lt_of_lt_mul hsq_hi)
      have hKle' := mul_le_mul_of_nonneg_left hten_le hK
      have hKge' := mul_le_mul_of_nonneg_left hle_ten hK
      rw [Nat.cast_add, Nat.cast_mul, Nat.cast_ofNat, Nat.cast_one] at h1 h2
      constructor <;> linarith

theorem le_ceilDiv (a : ℕ) {b : ℕ} (hb : 0 < b) : (a : ℝ) / b ≤ ceilDiv a b := by
  have hlt := Nat.lt_mul_div_succ (a + (b - 1)) hb
  have hle : a ≤ ceilDiv a b * b := by
    rw [ceilDiv, mul_comm]
    rw [mul_add, mul_one] at hlt
    omega
  rw [div_le_iff₀ (by exact_mod_cast hb)]
  exact_mod_cast hle

theorem ceilDiv_le {a b c : ℕ} (hb : 0 < b) (h : a ≤ b * c) : ceilDiv a b ≤ c := by
  rw [ceilDiv, ← Nat.lt_succ_iff]
  refine Nat.div_lt_of_lt_mul ?_
  rw [Nat.mul_succ]
  omega

/-- The square of a number up to ten, rounded up. -/
theorem fixedLog_square_up {m : ℕ} (hpos : 0 < m) (hhi : m ≤ 10 * 2 ^ logPlace) :
    0 < ceilDiv (m * m) (2 ^ logPlace) ∧ ceilDiv (m * m) (2 ^ logPlace) ≤ 10 * (10 * 2 ^ logPlace) ∧
      2 * fixedLog m ≤ fixedLog (ceilDiv (m * m) (2 ^ logPlace)) := by
  have hP : 0 < 2 ^ logPlace := by positivity
  have hm0 : (0 : ℝ) < m := by exact_mod_cast hpos
  have hge := le_ceilDiv (m * m) hP
  rw [Nat.cast_mul, Nat.cast_pow, Nat.cast_ofNat] at hge
  have hsq0 := (by positivity : (0 : ℝ) < m * m / 2 ^ logPlace).trans_le hge
  rw [← fixedLog_square hm0]
  refine ⟨by exact_mod_cast hsq0, ceilDiv_le hP ?_, fixedLog_mono (by positivity) hge⟩
  calc m * m ≤ (10 * 2 ^ logPlace) * (10 * 2 ^ logPlace) := Nat.mul_le_mul hhi hhi
    _ = _ := by ring

/-- A tenth of a number, rounded up. -/
theorem fixedLog_tenth_up {n : ℕ} (hpos : 0 < n) :
    0 < ceilDiv n 10 ∧ fixedLog n - 1 ≤ fixedLog (ceilDiv n 10) := by
  have hn0 : (0 : ℝ) < n := by exact_mod_cast hpos
  have hge := le_ceilDiv n (b := 10) (by norm_num)
  rw [Nat.cast_ofNat] at hge
  have htenth0 := (by positivity : (0 : ℝ) < n / 10).trans_le hge
  rw [← fixedLog_div_ten hn0]
  exact ⟨by exact_mod_cast htenth0, fixedLog_mono (by positivity) hge⟩

/-- R27: the digits computed by rounding up are above the logarithm, but for the last unit. -/
theorem le_logUp (k m acc : ℕ) (hpos : 0 < m) (hhi : m ≤ 10 * 2 ^ logPlace) :
    2 ^ k * (acc + fixedLog m) ≤ logUp k m acc + 1 := by
  induction k generalizing m acc with
  | zero =>
    have h1 : fixedLog m ≤ 1 := fixedLog_ten_places ▸ fixedLog_mono (by exact_mod_cast hpos) (by exact_mod_cast hhi)
    simp only [logUp]
    linarith
  | succ k ih =>
    obtain ⟨hsq_pos, hsq_hi, hlog⟩ := fixedLog_square_up hpos hhi
    simp only [logUp, shiftLeft_eq_mul_two_pow, Nat.one_mul]
    generalize ceilDiv (m * m) (2 ^ logPlace) = sq at *
    have hK : (0 : ℝ) ≤ 2 ^ k := by positivity
    have hpow : (2 : ℝ) ^ (k + 1) = 2 * 2 ^ k := pow_succ' 2 k
    have hKlog := mul_le_mul_of_nonneg_left hlog hK
    rw [hpow]
    split
    case isTrue hlt =>
      have h := ih sq (2 * acc) hsq_pos hlt.le
      push_cast at h ⊢
      linarith
    case isFalse hge =>
      obtain ⟨htenth_pos, hten⟩ := fixedLog_tenth_up hsq_pos
      have h := ih (ceilDiv sq 10) (2 * acc + 1) htenth_pos (ceilDiv_le (by norm_num) hsq_hi)
      have hKten := mul_le_mul_of_nonneg_left hten hK
      push_cast at h ⊢
      linarith

/-! ### The decimal exponent -/

theorem tenPow_eq (k : ℕ) : tenPow k = 10 ^ k := by
  induction k with
  | zero => rfl
  | succ k ih => rw [tenPow, ih, pow_succ']

theorem floorLog10_bounds (fuel n : ℕ) (hpos : 0 < n) (hn : n < 10 ^ (fuel + 1)) :
    10 ^ floorLog10 fuel n ≤ n ∧ n < 10 ^ (floorLog10 fuel n + 1) := by
  induction fuel generalizing n with
  | zero => exact ⟨hpos, hn⟩
  | succ fuel ih =>
    rw [floorLog10]
    split
    case isTrue hlt => exact ⟨hpos, hlt⟩
    case isFalse hge =>
      obtain ⟨hlo, hhi⟩ := ih (n / 10) (by omega) (Nat.div_lt_of_lt_mul (by rwa [← pow_succ']))
      rw [pow_succ] at hhi ⊢
      rw [pow_succ]
      omega

end Sys2Proof.Machine
end

section
/-!
PROOF. The two bounds of `log10Bounds` enclose the true logarithm (00_scope.md R27).
-/

namespace Sys2Proof.Machine

/-! ### Positive numbers -/

/-- The true decimal logarithm of a datum. -/
noncomputable def trueLog (x : B64) : ℝ := Real.logb 10 ((val64 x : ℚ) : ℝ)

theorem neg64_of_val64_pos {x : B64} (h : 0 < val64 x) : neg64 x = false := by
  by_contra hneg
  rw [Bool.not_eq_false] at hneg
  have : (0 : ℚ) ≤ units64 x * unit64 := mul_nonneg (Nat.cast_nonneg _) unit64_pos.le
  rw [val64_eq, hneg, signFactor_true] at h
  linarith

theorem val64_of_pos {x : B64} (h : 0 < val64 x) : val64 x = units64 x * unit64 := by
  rw [val64_eq, neg64_of_val64_pos h, signFactor_false, one_mul]

theorem units64_pos {x : B64} (h : 0 < val64 x) : 0 < units64 x := by
  refine Nat.pos_of_ne_zero fun h0 => h.ne' ?_
  rw [val64_of_pos h, h0, Nat.cast_zero, zero_mul]

theorem units64_eq_val64_mul {x : B64} (h : 0 < val64 x) : (units64 x : ℚ) = val64 x * 2 ^ 1074 := by
  rw [val64_of_pos h, mul_assoc, mul_comm unit64, two_pow_mul_unit64, mul_one]

theorem cast_val64 {x : B64} (h : 0 < val64 x) : ((val64 x : ℚ) : ℝ) = units64 x / 2 ^ 1074 := by
  have hcast := congrArg (Rat.cast : ℚ → ℝ) (units64_eq_val64_mul h)
  rw [Rat.cast_natCast, Rat.cast_mul, Rat.cast_pow, Rat.cast_ofNat] at hcast
  rw [eq_div_iff (by positivity), hcast]

theorem two_pow_mul_two_pow {a b c d : ℕ} (h : a + b = c + d) : 2 ^ a * 2 ^ b = 2 ^ c * 2 ^ d := by
  rw [← pow_add, ← pow_add, h]

theorem units64_lt {x : B64} (h : finite64 x) : units64 x < 2 ^ 1024 * 2 ^ 1074 :=
  calc units64 x < unitsOf 52 infMag64 := unitsOf_strictMono 52 ((finite64_iff x).1 h)
    _ = 2 ^ 53 * 2 ^ 2045 := unitsOf_infMag64
    _ = 2 ^ 1024 * 2 ^ 1074 := two_pow_mul_two_pow (by norm_num)

/-! ### The enclosure -/

theorem two_pow_le_ten_pow {k a : ℕ} (j : ℕ) (hk : k ≤ 93 * j + 53) (ha : 28 * j + 16 ≤ a) : 2 ^ k ≤ 10 ^ a :=
  calc 2 ^ k ≤ 2 ^ (93 * j + 53) := Nat.pow_le_pow_right two_pos hk
    _ = (2 ^ 93) ^ j * 2 ^ 53 := by rw [pow_add, pow_mul]
    _ ≤ (10 ^ 28) ^ j * 10 ^ 16 := Nat.mul_le_mul (Nat.pow_le_pow_left (by norm_num) j) (by norm_num)
    _ = 10 ^ (28 * j + 16) := by rw [pow_add, pow_mul]
    _ ≤ 10 ^ a := Nat.pow_le_pow_right (by norm_num) ha

theorem two_pow_le_ten_pow_324 {k : ℕ} (hk : k ≤ 1076) : 2 ^ k ≤ 10 ^ 324 := two_pow_le_ten_pow 11 hk (by norm_num)

/-- The integer part of `u / 2^k · 10^a`, for a number `u / 2^k` between `10^-a` and `10^a`. -/
theorem scaled_bounds {u a b c k : ℕ} (hu : 0 < u) (hlt : u < 2 ^ b * 2 ^ k) (hk : 2 ^ k ≤ 10 ^ a) (hb : 2 ^ b ≤ 10 ^ a)
    (hc : a + a ≤ c) : 0 < u * 10 ^ a / 2 ^ k ∧ u * 10 ^ a / 2 ^ k < 10 ^ c := by
  refine ⟨Nat.div_pos (hk.trans (Nat.le_mul_of_pos_left _ hu)) (by positivity), ?_⟩
  rw [Nat.div_lt_iff_lt_mul (by positivity)]
  calc u * 10 ^ a < 2 ^ b * 2 ^ k * 10 ^ a := by gcongr
    _ ≤ 10 ^ a * 2 ^ k * 10 ^ a := by gcongr
    _ = 10 ^ (a + a) * 2 ^ k := by ring
    _ ≤ 10 ^ c * 2 ^ k := by gcongr; norm_num

/-- The decimal exponent `e` leaves a fixed-point number between one and ten. -/
theorem fixedPoint_bounds {n k e P : ℕ} (hP : 0 < P) (hlo : 10 ^ e ≤ n / 2 ^ k) (hhi : n / 2 ^ k < 10 ^ (e + 1)) :
    P ≤ n * P / (10 ^ e * 2 ^ k) ∧ n * P / (10 ^ e * 2 ^ k) < 10 * P := by
  rw [Nat.le_div_iff_mul_le (by positivity)] at hlo
  rw [Nat.div_lt_iff_lt_mul (by positivity)] at hhi
  rw [Nat.le_div_iff_mul_le (by positivity), Nat.div_lt_iff_lt_mul (by positivity)]
  constructor
  · rw [mul_comm n]; gcongr
  · calc n * P < 10 ^ (e + 1) * 2 ^ k * P := by gcongr
      _ = _ := by ring

theorem fixedLog_mul_place {r : ℝ} : fixedLog (r * 2 ^ logPlace) = Real.logb 10 r := by
  rw [fixedLog, mul_div_cancel_right₀ _ (by positivity)]

/-- Of a number `n / 2^k` with decimal exponent `e`, the fixed-point number that is left encloses the logarithm. -/
theorem fixedPoint_encloses {n k e : ℕ} (hn : 0 < n) (hm : 2 ^ logPlace ≤ n * 2 ^ logPlace / (10 ^ e * 2 ^ k)) :
    fixedLog (n * 2 ^ logPlace / (10 ^ e * 2 ^ k) : ℕ) ≤ Real.logb 10 (n / 2 ^ k) - e ∧
      Real.logb 10 (n / 2 ^ k) - e ≤ fixedLog (n * 2 ^ logPlace / (10 ^ e * 2 ^ k) : ℕ) + 1 / 2 ^ logPlace ∧
      Real.logb 10 (n / 2 ^ k) - e ≤ fixedLog (n * 2 ^ logPlace / (10 ^ e * 2 ^ k) + 1 : ℕ) := by
  have hn' : (0 : ℝ) < n := by exact_mod_cast hn
  obtain ⟨hle, hge⟩ := natDiv_bounds (n * 2 ^ logPlace) (b := 10 ^ e * 2 ^ k) (by positivity)
  have hquot : ((n * 2 ^ logPlace : ℕ) : ℝ) / (10 ^ e * 2 ^ k : ℕ) = n / 2 ^ k / 10 ^ e * 2 ^ logPlace := by
    simp only [Nat.cast_mul, Nat.cast_pow, Nat.cast_ofNat]
    field_simp
  have hlog : fixedLog ((n : ℝ) / 2 ^ k / 10 ^ e * 2 ^ logPlace) = Real.logb 10 (n / 2 ^ k) - e := by
    rw [fixedLog_mul_place, Real.logb_div (by positivity) (by positivity), Real.logb_pow,
      Real.logb_self_eq_one (by norm_num), mul_one]
  rw [hquot] at hle hge
  rw [← hlog]
  obtain ⟨htrunc, htrunc'⟩ := fixedLog_truncate hm hle hge
  exact ⟨htrunc, htrunc', by rw [Nat.cast_succ]; exact fixedLog_mono (by positivity) hge⟩

theorem logb_scaled {x : B64} (hpos : 0 < val64 x) (a : ℕ) :
    Real.logb 10 ((units64 x * 10 ^ a : ℕ) / 2 ^ 1074) = trueLog x + a := by
  have hv : (0 : ℝ) < (val64 x : ℚ) := by exact_mod_cast hpos
  have hmul : ((units64 x * 10 ^ a : ℕ) : ℝ) / 2 ^ 1074 = (val64 x : ℚ) * 10 ^ a := by
    rw [cast_val64 hpos, Nat.cast_mul, Nat.cast_pow, Nat.cast_ofNat, div_mul_eq_mul_div]
  rw [hmul, Real.logb_mul hv.ne' (by positivity), Real.logb_pow, Real.logb_self_eq_one (by norm_num), trueLog, mul_one]

/-- The parts of `log10Bounds`: the decimal exponent `e - 324` and the fixed-point number `m` that is left. -/
theorem log10Bounds_parts {x : B64} (hx : finite64 x) (hpos : 0 < val64 x) :
    ∃ e m : ℕ, log10Bounds x = (((e : ℤ) - 324) * (2 ^ logDigits : ℕ) + logDown logDigits m 0,
        ((e : ℤ) - 324) * (2 ^ logDigits : ℕ) + logUp logDigits (m + 1) 0 + 1) ∧
      2 ^ logPlace ≤ m ∧ m < 10 * 2 ^ logPlace ∧
      fixedLog m ≤ trueLog x + (324 : ℕ) - e ∧ trueLog x + (324 : ℕ) - e ≤ fixedLog m + 1 / 2 ^ logPlace ∧
      trueLog x + (324 : ℕ) - e ≤ fixedLog (m + 1 : ℕ) := by
  have hP : 0 < 2 ^ logPlace := by positivity
  obtain ⟨hn_lo, hn_hi⟩ := scaled_bounds (c := 700 + 1) (units64_pos hpos) (units64_lt hx)
    (two_pow_le_ten_pow_324 (by norm_num)) (two_pow_le_ten_pow_324 (by norm_num)) (by norm_num)
  obtain ⟨he_lo, he_hi⟩ := floorLog10_bounds 700 _ hn_lo hn_hi
  obtain ⟨hm_lo, hm_hi⟩ := fixedPoint_bounds hP he_lo he_hi
  refine ⟨floorLog10 700 (units64 x * 10 ^ 324 / 2 ^ 1074), _, ?_, hm_lo, hm_hi, ?_⟩
  · simp only [log10Bounds, tenPow_eq, shiftRight_eq_div_two_pow, shiftLeft_eq_mul_two_pow, Nat.one_mul]
    rfl
  · rw [← logb_scaled hpos 324]
    exact fixedPoint_encloses (Nat.mul_pos (units64_pos hpos) (by positivity)) hm_lo

/-- R27: the two fixed-point numbers enclose the logarithm, the lower one within two units of the last place. -/
theorem log10Bounds_enclose {x : B64} (hx : finite64 x) (hpos : 0 < val64 x) :
    ((log10Bounds x).1 : ℝ) ≤ trueLog x * 2 ^ logDigits ∧ trueLog x * 2 ^ logDigits ≤ (log10Bounds x).2 ∧
      trueLog x * 2 ^ logDigits ≤ (log10Bounds x).1 + 2 := by
  obtain ⟨e, m, hparts, hm_lo, hm_hi, hlog_le, hle_log, hle_up⟩ := log10Bounds_parts hx hpos
  obtain ⟨hdown, hle_down⟩ := logDown_bounds logDigits m 0 hm_lo hm_hi
  have hup := le_logUp logDigits (m + 1) 0 m.succ_pos hm_hi
  have hK : (0 : ℝ) ≤ 2 ^ logDigits := by positivity
  have hsmall : 2 ^ logDigits * (3 / 2 ^ logPlace : ℝ) ≤ 1 := by
    have hplace : (2 : ℝ) ^ logPlace = 2 ^ logDigits * 2 ^ 320 := by rw [← pow_add]; rfl
    have h3 : (3 : ℝ) ≤ 2 ^ 320 :=
      (by norm_num : (3 : ℝ) ≤ 2 ^ 2).trans (pow_le_pow_right₀ (by norm_num) (by norm_num))
    rw [mul_div_assoc', div_le_one (by positivity), hplace]
    gcongr
  have hnonneg : (0 : ℝ) ≤ 1 / 2 ^ logPlace := by positivity
  have h1 := mul_le_mul_of_nonneg_left hlog_le hK
  have h2 := mul_le_mul_of_nonneg_left hle_log hK
  have h3 := mul_le_mul_of_nonneg_left hle_up hK
  rw [hparts]
  simp only [Nat.cast_zero, zero_add, Nat.cast_ofNat, Int.cast_add, Int.cast_mul, Int.cast_sub, Int.cast_natCast,
    Int.cast_ofNat, Int.cast_one, Nat.cast_pow, Int.cast_pow] at hdown hle_down hup h1 h2 h3 ⊢
  rw [(by ring : (3 : ℝ) / 2 ^ logPlace = 3 * (1 / 2 ^ logPlace))] at hsmall
  generalize (1 : ℝ) / 2 ^ logPlace = δ at *
  generalize (2 : ℝ) ^ logDigits = K at *
  refine ⟨?_, ?_, ?_⟩ <;> linarith

end Sys2Proof.Machine
end

section
/-!
PROOF. One ulp of a real number, and what passes the test `withinUlp` (00_scope.md R27).
-/

namespace Sys2Proof.Machine

/-! ### Units in the last place -/

/-- R27: one ulp of a real number (log 4). -/
noncomputable def ulpOf (y : ℝ) : ℝ := 2 ^ (⌊Real.logb 2 |y|⌋ - 52)

theorem ulpOf_pos (y : ℝ) : 0 < ulpOf y := by unfold ulpOf; positivity

theorem ulpOf_eq_log (y : ℝ) : ulpOf y = 2 ^ (Int.log 2 |y| - 52) := by
  have h := Real.floor_logb_natCast (b := 2) (abs_nonneg y)
  rw [Nat.cast_ofNat] at h
  rw [ulpOf, h]

theorem two_zpow_le_ulpOf {y : ℝ} {e : ℤ} (h : (2 : ℝ) ^ e ≤ |y|) : (2 : ℝ) ^ (e - 52) ≤ ulpOf y := by
  have hpos : 0 < |y| := (by positivity : (0 : ℝ) < 2 ^ e).trans_le h
  rw [ulpOf_eq_log]
  have hle : e ≤ Int.log 2 |y| := (Int.zpow_le_iff_le_log one_lt_two hpos).1 (by exact_mod_cast h)
  exact zpow_le_zpow_right₀ one_le_two (by omega)

/-! ### The implementation's logarithm -/

/-- Where the test with the bounds `lo` and `hi` succeeds, they have the same sign. -/
theorem bounds_same_sign {lo hi v : ℤ} {c : ℕ} (hle : lo ≤ hi) (hne : lo ≠ 0 ∨ hi ≠ 0)
    (hv_lo : v - lo * 2 ^ (c + 52) ≤ 2 ^ (Nat.log2 (min lo.natAbs hi.natAbs) + c))
    (hv_hi : hi * 2 ^ (c + 52) - v ≤ 2 ^ (Nat.log2 (min lo.natAbs hi.natAbs) + c)) : 0 < lo ∨ hi < 0 := by
  by_contra! hsign
  obtain ⟨hlo, hhi⟩ := hsign
  set a := min lo.natAbs hi.natAbs with ha
  have hlog : (2 : ℤ) ^ a.log2 ≤ hi - lo := by
    obtain h0 | h0 := eq_or_ne a 0
    · rw [h0]; simp; omega
    · have : 2 ^ a.log2 ≤ a := Nat.log2_self_le h0
      have : ((2 ^ a.log2 : ℕ) : ℤ) ≤ hi - lo := by omega
      exact_mod_cast this
  have hpos : (0 : ℤ) < 2 ^ a.log2 * 2 ^ c := by positivity
  have hmul := mul_le_mul_of_nonneg_right hlog (by positivity : (0 : ℤ) ≤ 2 ^ c)
  rw [pow_add] at hv_lo hv_hi
  rw [pow_add] at hv_lo hv_hi
  linarith

theorem cast_val64_mul (y : B64) : ((val64 y : ℚ) : ℝ) * 2 ^ 1074 = signedUnits64 y := by
  have h : val64 y * 2 ^ 1074 = signedUnits64 y := by
    rw [val64_eq_signedUnits64, mul_assoc, mul_comm unit64, two_pow_mul_unit64, mul_one]
  have hcast := congrArg (Rat.cast : ℚ → ℝ) h
  rwa [Rat.cast_mul, Rat.cast_pow, Rat.cast_ofNat, Rat.cast_intCast] at hcast

/-- One ulp of the smaller bound, in the units of `withinUlp`, is at most one ulp of the number. -/
theorem ulp_units_le {a : ℕ} {y : ℝ} (h0 : a ≠ 0) (ha : a ≤ |y| * 2 ^ logDigits) :
    (2 : ℝ) ^ (a.log2 + 1022) ≤ ulpOf y * (2 ^ 1074 * 2 ^ logDigits) := by
  have hlog : (2 : ℝ) ^ a.log2 ≤ |y| * 2 ^ logDigits :=
    le_trans (by exact_mod_cast Nat.log2_self_le h0) ha
  have hle : (2 : ℝ) ^ ((a.log2 : ℤ) - logDigits) ≤ |y| := by
    rwa [zpow_sub₀ two_ne_zero, zpow_natCast, zpow_natCast, div_le_iff₀ (by positivity)]
  calc (2 : ℝ) ^ (a.log2 + 1022) = 2 ^ ((a.log2 : ℤ) - logDigits - 52) * (2 ^ 1074 * 2 ^ logDigits) := by
        rw [← zpow_natCast, ← zpow_natCast, ← zpow_natCast, ← zpow_add₀ two_ne_zero, ← zpow_add₀ two_ne_zero]
        congr 1
        push_cast
        ring
    _ ≤ _ := mul_le_mul_of_nonneg_right (two_zpow_le_ulpOf hle) (by positivity)

/-- R27: what passes the test `withinUlp` with two bounds of a number is finite and within one ulp of the number. -/
theorem withinUlp_sound {lo hi : ℤ} {r : B64} {y : ℝ} (h : withinUlp lo hi r = true) (hy : y ≠ 0)
    (hlo : lo ≤ y * 2 ^ logDigits) (hhi : y * 2 ^ logDigits ≤ hi) :
    finite64 r ∧ |((val64 r : ℚ) : ℝ) - y| ≤ ulpOf y := by
  simp only [withinUlp, Bool.and_eq_true, decide_eq_true_eq, Nat.one_shiftLeft, Nat.cast_pow, Nat.cast_ofNat] at h
  obtain ⟨⟨hfin, hv_lo⟩, hv_hi⟩ := h
  have hK : (0 : ℝ) < 2 ^ logDigits := by positivity
  have hle : lo ≤ hi := by exact_mod_cast hlo.trans hhi
  have hne : lo ≠ 0 ∨ hi ≠ 0 := by
    by_contra! hzero
    rw [hzero.1, Int.cast_zero] at hlo
    rw [hzero.2, Int.cast_zero] at hhi
    exact hy ((mul_eq_zero.1 (le_antisymm hhi hlo)).resolve_right hK.ne')
  have hsign := bounds_same_sign (c := 1022) hle hne hv_lo hv_hi
  set a := min lo.natAbs hi.natAbs with ha
  have ha0 : a ≠ 0 := by omega
  have ha_le : (a : ℝ) ≤ |y| * 2 ^ logDigits := by
    rw [← abs_of_pos hK, ← abs_mul]
    obtain hpos | hneg := hsign
    · have : (a : ℤ) ≤ lo := by omega
      exact le_trans (le_trans (by exact_mod_cast this) hlo) (le_abs_self _)
    · have : (a : ℤ) ≤ -hi := by omega
      have : (a : ℝ) ≤ -hi := by exact_mod_cast this
      exact le_trans (by linarith) (neg_le_abs _)
  refine ⟨(finite64_iff r).2 hfin, ?_⟩
  have hulp := ulp_units_le ha0 ha_le
  have hv_lo' := (Int.cast_le (R := ℝ)).2 hv_lo
  have hv_hi' := (Int.cast_le (R := ℝ)).2 hv_hi
  simp only [Int.cast_sub, Int.cast_mul, Int.cast_pow, Int.cast_ofNat, ← cast_val64_mul] at hv_lo' hv_hi'
  have hscale : (0 : ℝ) < 2 ^ 1074 * 2 ^ logDigits := mul_pos (pow_pos two_pos _) hK
  have htwo : (0 : ℝ) ≤ 2 ^ 1074 := pow_nonneg two_pos.le _
  generalize (2 : ℝ) ^ (a.log2 + 1022) = U at *
  generalize (2 : ℝ) ^ 1074 = A at *
  have hloA := mul_le_mul_of_nonneg_right hlo htwo
  have hhiA := mul_le_mul_of_nonneg_right hhi htwo
  rw [abs_le, ← mul_le_mul_iff_left₀ hscale, ← mul_le_mul_iff_left₀ hscale (b := _ - _)]
  constructor <;> linarith

end Sys2Proof.Machine
end

section
/-!
PROOF. The datum nearest to a logarithm is within one ulp of it (00_scope.md R27).
-/

namespace Sys2Proof.Machine

/-! ### The nearest datum -/

theorem cast_unit64 : ((unit64 : ℚ) : ℝ) = 2 ^ (-1074 : ℤ) := by
  rw [unit64, Rat.cast_zpow, Rat.cast_ofNat]

theorem cast_signFactor_mul_abs (y : ℝ) : ((signFactor (decide (y < 0)) : ℚ) : ℝ) * |y| = y := by
  obtain h | h := lt_or_ge y 0
  · simp [h, abs_of_neg]
  · simp [h.not_gt, abs_of_nonneg h]

theorem abs_cast_signFactor (s : Bool) : |((signFactor s : ℚ) : ℝ)| = 1 := by cases s <;> simp

/-- The nearest multiple of `u`. -/
theorem exists_multiple_within_half {a u : ℝ} {m : ℕ} (ha : 0 ≤ a) (hu : 0 < u) (hlt : a < m * u) :
    ∃ n ≤ m, |n * u - a| ≤ u / 2 := by
  have hdiv : a / u < m := by rwa [div_lt_iff₀ hu]
  have hle := Nat.floor_le (by positivity : 0 ≤ a / u + 1 / 2)
  have hlt' := Nat.lt_floor_add_one (a / u + 1 / 2)
  generalize ⌊a / u + 1 / 2⌋₊ = n at hle hlt'
  refine ⟨n, Nat.lt_succ_iff.1 (by exact_mod_cast (by linarith : (n : ℝ) < m + 1)), ?_⟩
  have h1 := mul_le_mul_of_nonneg_right hle hu.le
  have h2 := mul_le_mul_of_nonneg_right hlt'.le hu.le
  rw [add_mul, div_mul_cancel₀ _ hu.ne'] at h1 h2
  rw [abs_le]
  constructor <;> linarith

/-- Some datum is within half an ulp of a number in the range of logarithms. -/
theorem exists_finite64_within_half_ulp {y : ℝ} (hlo : 2 ^ (-57 : ℤ) ≤ |y|) (hhi : |y| < 2 ^ (9 : ℤ)) :
    ∃ z, finite64 z ∧ |((val64 z : ℚ) : ℝ) - y| ≤ ulpOf y / 2 := by
  have hpos : 0 < |y| := (by positivity : (0 : ℝ) < 2 ^ (-57 : ℤ)).trans_le hlo
  have hk_lo : -57 ≤ Int.log 2 |y| := (Int.zpow_le_iff_le_log one_lt_two hpos).1 (by exact_mod_cast hlo)
  have hk_hi : Int.log 2 |y| < 9 := (Int.lt_zpow_iff_log_lt one_lt_two hpos).1 (by exact_mod_cast hhi)
  have hlt : |y| < (2 ^ 53 : ℕ) * ulpOf y :=
    calc |y| < 2 ^ (Int.log 2 |y| + 1) := by exact_mod_cast Int.lt_zpow_succ_log_self one_lt_two |y|
      _ = 2 ^ ((53 : ℕ) + (Int.log 2 |y| - 52) : ℤ) := by congr 1; omega
      _ = (2 ^ 53 : ℕ) * ulpOf y := by
        rw [zpow_add₀ two_ne_zero, ulpOf_eq_log, zpow_natCast, Nat.cast_pow, Nat.cast_ofNat]
  obtain ⟨e, he⟩ : ∃ e : ℕ, (e : ℤ) = Int.log 2 |y| + 1022 := ⟨(Int.log 2 |y| + 1022).toNat, by omega⟩
  have hulp : ulpOf y = 2 ^ e * ((unit64 : ℚ) : ℝ) := by
    rw [ulpOf_eq_log, cast_unit64, ← zpow_natCast, he, ← zpow_add₀ two_ne_zero]
    congr 1
    ring
  obtain ⟨n, hn, hnear⟩ := exists_multiple_within_half hpos.le (ulpOf_pos y) hlt
  obtain ⟨z, hz, hval⟩ := exists_finite64 (decide (y < 0)) hn (e := e) (by omega)
  refine ⟨z, hz, ?_⟩
  have hdiff : ((val64 z : ℚ) : ℝ) - y = (signFactor (decide (y < 0)) : ℚ) * (n * ulpOf y - |y|) := by
    rw [mul_sub, cast_signFactor_mul_abs, hval, hulp]
    push_cast
    ring
  rwa [hdiff, abs_mul, abs_cast_signFactor, one_mul]

theorem roundsTo64_log10Nearest (lo : ℤ) : roundsTo64 ((lo : ℚ) / 2 ^ logDigits) (log10Nearest lo) := by
  refine roundsTo64_round64 (one_shiftLeft_pos _) ?_
  have hsign : decide (lo < 0) = decide ((lo : ℚ) < 0) := by simp
  have habs : (lo.natAbs : ℚ) = |(lo : ℚ)| := by rw [Nat.cast_natAbs, Int.cast_abs]
  rw [cast_shiftLeft, cast_shiftLeft, habs, hsign, Nat.cast_one, one_mul, mul_div_right_comm, mul_assoc,
    two_pow_mul_unit64, mul_one, ← mul_div_assoc, ← eq_signFactor_mul_abs]

/-- R27: the datum nearest to a lower bound of a logarithm is within one ulp of the logarithm. -/
theorem log10Nearest_sound {lo : ℤ} {y : ℝ} (hlo : lo ≤ y * 2 ^ logDigits) (hhi : y * 2 ^ logDigits ≤ lo + 2)
    (hmin : 2 ^ (-57 : ℤ) ≤ |y|) (hmax : |y| < 2 ^ (9 : ℤ)) :
    finite64 (log10Nearest lo) ∧ |((val64 (log10Nearest lo) : ℚ) : ℝ) - y| ≤ ulpOf y := by
  have hround := roundsTo64_log10Nearest lo
  obtain ⟨z, hz, hnear⟩ := exists_finite64_within_half_ulp hmin hmax
  have hulp : 2 ^ (-57 - 52 : ℤ) ≤ ulpOf y := two_zpow_le_ulpOf hmin
  have hK : (0 : ℝ) < 2 ^ logDigits := by positivity
  have hsmall : 4 * (2 / 2 ^ logDigits) ≤ ulpOf y := le_trans (by norm_num [logDigits]) hulp
  have hdist : |(((lo : ℚ) / 2 ^ logDigits : ℚ) : ℝ) - y| ≤ 2 / 2 ^ logDigits := by
    push_cast
    rw [div_sub' hK.ne', abs_div, abs_of_pos hK]
    gcongr
    rw [abs_le]
    constructor <;> linarith
  have hrange : |(lo : ℚ) / 2 ^ logDigits| < 2 ^ 1024 - 2 ^ 970 := by
    obtain ⟨hfin, hval⟩ := natToB64_exact (n := 1024) (by norm_num)
    have h1024 := abs_val64_lt hfin
    rw [hval, Nat.cast_ofNat, abs_of_pos (by norm_num)] at h1024
    refine lt_trans ?_ h1024
    rw [← Rat.cast_lt (K := ℝ), Rat.cast_abs, Rat.cast_ofNat]
    have htri := abs_sub_abs_le_abs_sub (((lo : ℚ) / 2 ^ logDigits : ℚ) : ℝ) y
    have hone : (2 : ℝ) / 2 ^ logDigits ≤ 1 := by norm_num [logDigits]
    have hmax' : |y| < 512 := hmax.trans_eq (by norm_num)
    linarith
  rw [roundsTo64, if_pos hrange] at hround
  obtain ⟨hfin, hbest, -⟩ := hround
  refine ⟨hfin, ?_⟩
  have hbest := (Rat.cast_le (K := ℝ)).2 (hbest z hz)
  rw [Rat.cast_abs, Rat.cast_abs, Rat.cast_sub, Rat.cast_sub] at hbest
  generalize (((lo : ℚ) / 2 ^ logDigits : ℚ) : ℝ) = q at *
  generalize ((val64 (log10Nearest lo) : ℚ) : ℝ) = r at *
  generalize ((val64 z : ℚ) : ℝ) = w at *
  generalize (2 : ℝ) / 2 ^ logDigits = δ at *
  calc |r - y| ≤ |r - q| + |q - y| := abs_sub_le _ _ _
    _ ≤ |q - w| + |q - y| := by rw [abs_sub_comm r]; gcongr
    _ ≤ (|q - y| + |y - w|) + |q - y| := by gcongr; exact abs_sub_le _ _ _
    _ ≤ ulpOf y := by rw [abs_sub_comm y]; linarith

end Sys2Proof.Machine
end

section
/-!
PROOF. `F_log10`: exact powers of ten, the range of the logarithm, and the five properties (00_scope.md R27).
-/

namespace Sys2Proof.Machine

/-! ### Exact powers of ten -/

theorem units64_eq_iff {x : B64} (hpos : 0 < val64 x) (k : ℕ) : units64 x = 10 ^ k * 2 ^ 1074 ↔ val64 x = 10 ^ k := by
  have htwo : (2 : ℚ) ^ 1074 ≠ 0 := pow_ne_zero _ two_ne_zero
  rw [← Nat.cast_inj (R := ℚ), units64_eq_val64_mul hpos, Nat.cast_mul, Nat.cast_pow, Nat.cast_pow, Nat.cast_ofNat,
    Nat.cast_ofNat, mul_left_inj' htwo]

theorem exactPowerOfTen_eq_some {x : B64} {b k : ℕ} (hpos : 0 < val64 x) (h : exactPowerOfTen x b = some k) :
    k < b ∧ val64 x = 10 ^ k := by
  have hmem := List.mem_of_find?_eq_some h
  have hunits := List.find?_some h
  rw [beq_iff_eq, tenPow_eq, shiftLeft_eq_mul_two_pow, units64_eq_iff hpos] at hunits
  exact ⟨List.mem_range.1 hmem, hunits⟩

theorem exactPowerOfTen_eq_none {x : B64} {b k : ℕ} (hpos : 0 < val64 x) (h : exactPowerOfTen x b = none) (hk : k < b) :
    val64 x ≠ 10 ^ k := by
  have hunits := List.find?_eq_none.1 h k (List.mem_range.2 hk)
  rwa [beq_iff_eq, tenPow_eq, shiftLeft_eq_mul_two_pow, units64_eq_iff hpos] at hunits

/-- A significand of 53 bits times a power of two is divisible by at most 22 fives. -/
theorem lt_of_five_pow_dvd {q t j : ℕ} (hq0 : q ≠ 0) (hq : q < 2 ^ 53) (h : 5 ^ j ∣ q * 2 ^ t) : j < 23 := by
  have hdvd : 5 ^ j ∣ q := Nat.Coprime.dvd_of_dvd_mul_right (Nat.Coprime.pow _ _ (by norm_num)) h
  have hle := Nat.le_of_dvd (Nat.pos_of_ne_zero hq0) hdvd
  exact (Nat.pow_lt_pow_iff_right (by norm_num : 1 < 5)).1 (hle.trans_lt (hq.trans (by norm_num)))

/-- A negative power of ten is no dyadic fraction. -/
theorem natCast_ne_negSucc_power (u j k : ℕ) : (u : ℚ) ≠ 10 ^ Int.negSucc j * 2 ^ k := by
  intro h
  rw [zpow_negSucc, inv_mul_eq_div, eq_div_iff (by positivity)] at h
  have hnat : u * 10 ^ (j + 1) = 2 ^ k := by exact_mod_cast h
  have hdvd : 5 ∣ 2 ^ k := hnat ▸ Dvd.dvd.mul_left (Dvd.dvd.pow (by norm_num) j.succ_ne_zero) u
  exact absurd (Nat.Prime.dvd_of_dvd_pow (by norm_num) hdvd) (by norm_num)

/-- R27: the powers of ten that are `b64` data are `10^0` to `10^22`. -/
theorem exists_lt_of_val64_eq_zpow {x : B64} {k : ℤ} (h : val64 x = (10 : ℚ) ^ k) : ∃ j < 23, k = (j : ℕ) := by
  have hpos : 0 < val64 x := h ▸ by positivity
  cases k with
  | ofNat j =>
    refine ⟨j, ?_, rfl⟩
    rw [Int.ofNat_eq_natCast, zpow_natCast, ← units64_eq_iff hpos] at h
    obtain ⟨t, q, hm, hnormal, hq⟩ := exists_exponent_significand 52 (mag64 x)
    have hunits : units64 x = q * 2 ^ t := by rw [units64, hm, unitsOf_exponent_significand hnormal hq.le]
    have hq0 : q ≠ 0 := fun h0 => (units64_pos hpos).ne' (by rw [hunits, h0, zero_mul])
    refine lt_of_five_pow_dvd hq0 hq (t := t) ?_
    rw [← hunits, h]
    exact Dvd.dvd.mul_right (pow_dvd_pow_of_dvd (by norm_num) j) _
  | negSucc j =>
    have hunits := units64_eq_val64_mul hpos
    rw [h] at hunits
    exact absurd hunits (natCast_ne_negSucc_power (units64 x) j 1074)

/-! ### The range of the logarithm -/

theorem one_pattern_neighbours {x : B64} (hne : units64 x ≠ 2 ^ 52 * 2 ^ 1022) :
    units64 x ≤ (2 ^ 53 - 1) * 2 ^ 1021 ∨ (2 ^ 52 + 1) * 2 ^ 1022 ≤ units64 x := by
  have hone : unitsOf 52 (1022 * 2 ^ 52 + 2 ^ 52) = 2 ^ 52 * 2 ^ 1022 :=
    unitsOf_exponent_significand (.inr le_rfl) (Nat.pow_le_pow_right two_pos (by norm_num))
  have hnext : unitsOf 52 (1022 * 2 ^ 52 + (2 ^ 52 + 1)) = (2 ^ 52 + 1) * 2 ^ 1022 :=
    unitsOf_exponent_significand (.inr (by norm_num)) (by norm_num)
  have hprev : unitsOf 52 (1021 * 2 ^ 52 + (2 ^ 53 - 1)) = (2 ^ 53 - 1) * 2 ^ 1021 :=
    unitsOf_exponent_significand (.inr (by norm_num)) (by norm_num)
  rw [← hone] at hne
  rw [← hnext, ← hprev, units64, (unitsOf_strictMono 52).le_iff_le, (unitsOf_strictMono 52).le_iff_le]
  have hmag : mag64 x ≠ 1022 * 2 ^ 52 + 2 ^ 52 := fun heq => hne (by rw [units64, heq])
  omega

/-- The data next to 1 are `1 - 2^-53` and `1 + 2^-52`. -/
theorem val64_away_from_one {x : B64} (hpos : 0 < val64 x) (hne : val64 x ≠ 1) :
    ((val64 x : ℚ) : ℝ) ≤ 1 - 1 / 2 ^ 53 ∨ 1 + 1 / 2 ^ 52 ≤ ((val64 x : ℚ) : ℝ) := by
  have htwo : ∀ a b : ℕ, a + b = 1074 → (2 : ℝ) ^ 1074 = 2 ^ a * 2 ^ b := fun a b h => by rw [← h, pow_add]
  have hunits : units64 x ≠ 2 ^ 52 * 2 ^ 1022 := fun h => hne (by
    have := (units64_eq_iff hpos 0).1 (by rw [h, ← pow_add, pow_zero, one_mul])
    rwa [pow_zero] at this)
  rw [cast_val64 hpos]
  obtain h | h := one_pattern_neighbours hunits
  · left
    rw [div_le_iff₀ (pow_pos two_pos _), htwo 53 1021 (by norm_num), ← mul_assoc]
    calc (units64 x : ℝ) ≤ ((2 ^ 53 - 1) * 2 ^ 1021 : ℕ) := Nat.cast_le.2 h
      _ = (2 ^ 53 - 1 : ℕ) * 2 ^ 1021 := by rw [Nat.cast_mul, Nat.cast_pow, Nat.cast_ofNat]
      _ ≤ _ := by gcongr; norm_num
  · right
    rw [le_div_iff₀ (pow_pos two_pos _), htwo 52 1022 (by norm_num), ← mul_assoc]
    calc _ ≤ ((2 ^ 52 + 1 : ℕ) : ℝ) * 2 ^ 1022 := by gcongr; norm_num
      _ = ((2 ^ 52 + 1) * 2 ^ 1022 : ℕ) := by rw [Nat.cast_mul, Nat.cast_pow 2 1022, Nat.cast_ofNat]
      _ ≤ units64 x := Nat.cast_le.2 h

theorem log_ten_le : Real.log 10 ≤ 16 := by
  linarith [Real.log_le_sub_one_of_pos (by norm_num : (0 : ℝ) < 10)]

/-- A logarithm that is not 0 is at least `2^-57`. -/
theorem le_abs_trueLog {x : B64} (hpos : 0 < val64 x) (hne : val64 x ≠ 1) : 2 ^ (-57 : ℤ) ≤ |trueLog x| := by
  have hv : (0 : ℝ) < (val64 x : ℚ) := by exact_mod_cast hpos
  have hlog : 1 / 2 ^ 53 ≤ |Real.log (val64 x : ℚ)| := by
    obtain h | h := val64_away_from_one hpos hne
    · have := Real.log_le_sub_one_of_pos hv
      exact le_trans (by linarith) (neg_le_abs _)
    · have hinv : ((val64 x : ℚ) : ℝ)⁻¹ ≤ (1 + 1 / 2 ^ 52)⁻¹ := inv_anti₀ (by positivity) h
      have := Real.one_sub_inv_le_log_of_pos hv
      have hnum : (1 + 1 / 2 ^ 52 : ℝ)⁻¹ ≤ 1 - 1 / 2 ^ 53 := by norm_num
      exact le_trans (by linarith) (le_abs_self _)
  have hten := one_le_log_ten
  rw [trueLog, Real.logb, abs_div, abs_of_pos (by linarith : 0 < Real.log 10), le_div_iff₀ (by linarith)]
  calc (2 : ℝ) ^ (-57 : ℤ) * Real.log 10 ≤ 2 ^ (-57 : ℤ) * 16 := by gcongr; exact log_ten_le
    _ = 1 / 2 ^ 53 := by norm_num
    _ ≤ _ := hlog

theorem logb_le_of_le_ten_pow {u k a : ℕ} (hu : 0 < u) (h : u ≤ 10 ^ a * 2 ^ k) : Real.logb 10 (u / 2 ^ k) ≤ a := by
  have hu' : (0 : ℝ) < u := by exact_mod_cast hu
  have h' : (u : ℝ) / 2 ^ k ≤ 10 ^ a := by
    rw [div_le_iff₀ (by positivity)]
    exact_mod_cast h
  calc Real.logb 10 (u / 2 ^ k) ≤ Real.logb 10 (10 ^ a) := Real.logb_le_logb_of_le (by norm_num) (by positivity) h'
    _ = a := by rw [Real.logb_pow, Real.logb_self_eq_one (by norm_num), mul_one]

theorem logb_nonneg_of_two_pow_le {n k : ℕ} (h : 2 ^ k ≤ n) : 0 ≤ Real.logb 10 (n / 2 ^ k) := by
  refine Real.logb_nonneg (by norm_num) ?_
  rw [one_le_div (by positivity)]
  exact_mod_cast h

theorem abs_trueLog_lt {x : B64} (hx : finite64 x) (hpos : 0 < val64 x) : |trueLog x| < 2 ^ (9 : ℤ) := by
  have hunits := units64_pos hpos
  have hupper : trueLog x ≤ (324 : ℕ) := by
    rw [trueLog, cast_val64 hpos]
    exact logb_le_of_le_ten_pow hunits
      ((units64_lt hx).le.trans (Nat.mul_le_mul_right _ (two_pow_le_ten_pow_324 (by norm_num))))
  have hlower := logb_nonneg_of_two_pow_le
    ((two_pow_le_ten_pow_324 (k := 1074) (by norm_num)).trans (Nat.le_mul_of_pos_left _ hunits))
  rw [logb_scaled hpos] at hlower
  rw [Nat.cast_ofNat] at hupper hlower
  rw [abs_lt]
  norm_num
  constructor <;> linarith

/-! ### The function -/

/-- Where the logarithm is no power of ten, the implementation's value within the bounds, or the nearest datum. -/
theorem fLog10_of_pos {x : B64} (hx : finite64 x) (hpos : 0 < val64 x) :
    (∃ k < 23, val64 x = 10 ^ k ∧ fLog10 x = natToB64 k) ∨
      (∀ k < 23, val64 x ≠ 10 ^ k) ∧
        fLog10 x = if withinUlp (log10Bounds x).1 (log10Bounds x).2 (Config.log10Raw x) then Config.log10Raw x
          else log10Nearest (log10Bounds x).1 := by
  cases h : exactPowerOfTen x 23 with
  | some k =>
    obtain ⟨hk, hval⟩ := exactPowerOfTen_eq_some hpos h
    exact .inl ⟨k, hk, hval, by simp [fLog10, hx, isZero64_eq_decide, hpos.ne', neg64_of_val64_pos hpos, h]⟩
  | none =>
    exact .inr ⟨fun k => exactPowerOfTen_eq_none hpos h,
      by simp [fLog10, hx, isZero64_eq_decide, hpos.ne', neg64_of_val64_pos hpos, h]⟩

theorem trueLog_of_power {x : B64} {k : ℕ} (h : val64 x = 10 ^ k) : trueLog x = k := by
  rw [trueLog, h, Rat.cast_pow, Rat.cast_ofNat, Real.logb_pow, Real.logb_self_eq_one (by norm_num), mul_one]

/-- R27: on every positive finite datum the result is finite and within one ulp of the logarithm. -/
theorem fLog10_within_ulp {x : B64} (hx : finite64 x) (hpos : 0 < val64 x) :
    finite64 (fLog10 x) ∧ |((val64 (fLog10 x) : ℚ) : ℝ) - trueLog x| ≤ ulpOf (trueLog x) := by
  obtain ⟨k, hk, hval, hlog⟩ | ⟨hne, hlog⟩ := fLog10_of_pos hx hpos
  · obtain ⟨hfin, hexact⟩ := natToB64_exact (n := k) (hk.trans (by norm_num))
    rw [hlog, hexact, trueLog_of_power hval, Rat.cast_natCast, sub_self, abs_zero]
    exact ⟨hfin, (ulpOf_pos _).le⟩
  · obtain ⟨hlo, hhi, hclose⟩ := log10Bounds_enclose hx hpos
    have hmin := le_abs_trueLog hpos (by simpa using hne 0 (by norm_num))
    have hzero : trueLog x ≠ 0 := abs_pos.1 ((by positivity : (0 : ℝ) < 2 ^ (-57 : ℤ)).trans_le hmin)
    rw [hlog]
    split
    case isTrue hwithin => exact withinUlp_sound hwithin hzero hlo hhi
    case isFalse => exact log10Nearest_sound hlo hclose hmin (abs_trueLog_lt hx hpos)

theorem fLog10_power_of_ten {x : B64} {k : ℤ} (hx : finite64 x) (h : val64 x = (10 : ℚ) ^ k) :
    finite64 (fLog10 x) ∧ val64 (fLog10 x) = (k : ℚ) := by
  have hpos : 0 < val64 x := h ▸ by positivity
  obtain ⟨j, hj, rfl⟩ := exists_lt_of_val64_eq_zpow h
  rw [zpow_natCast] at h
  obtain ⟨k, hk, hval, hlog⟩ | ⟨hne, -⟩ := fLog10_of_pos hx hpos
  · obtain rfl : j = k := pow_right_injective₀ (by norm_num) (by norm_num) (h.symm.trans hval)
    rw [hlog, Int.cast_natCast]
    exact natToB64_exact (hj.trans (by norm_num))
  · exact absurd h (hne j hj)

theorem fLog10_of_nan_or_neg {x : B64} (h : nanPattern64 x ∨ flt x 0 = true) : fLog10 x = nan64 := by
  rw [← isNaN64_iff] at h
  obtain h | h := h
  · simp [fLog10, h]
  · simp only [flt, Bool.and_eq_true, Bool.not_eq_true', decide_eq_true_eq] at h
    obtain ⟨⟨hnan, -⟩, hlt⟩ := h
    have horder : order64 x < 0 := hlt
    have hneg : neg64 x = true ∧ mag64 x ≠ 0 := by
      rw [order64] at horder
      split at horder
      · exact ⟨by assumption, by omega⟩
      · omega
    simp [fLog10, hnan, isZero64, hneg]

/-- Settles O60: the logarithm is enclosed between its bounds, and both the implementation's value and the nearest datum
are within one ulp of every number they enclose. -/
theorem logarithmMeetsItsBounds : Obligations.LogarithmMeetsItsBounds :=
  ⟨rfl, rfl, rfl, fun _ h => fLog10_of_nan_or_neg h, fun _ _ hx h => fLog10_power_of_ten hx h,
    fun _ hx hpos => fLog10_within_ulp hx hpos⟩

end Sys2Proof.Machine
end

section
/-!
PROOF. The register window: which register each offset names, what a host read of it answers and what a host write to it
does (10_state.md section 2); and from that the statements about single host accesses.
-/

namespace Sys2Proof.Machine

/-! ### Accesses to the register window -/

/-- R41: only an aligned 8-byte read looks at the register. -/
theorem hostAccess_read_aligned (s : State) {off : Nat} (halign : off % 8 = 0) (hoff : off < Config.regBytes) :
    hostAccess s (.read .regs .w8 off) = .next (s.answer (s.regRead off)) := by
  simp [hostAccess, hoff, State.hostReadReg, Width.aligned, Width.bytes, halign]

theorem hostAccess_write_aligned (s : State) {off : Nat} (v : B64) (halign : off % 8 = 0) (hoff : off < Config.regBytes) :
    hostAccess s (.write .regs .w8 off v) = .next (s.regWrite off v) := by
  simp [hostAccess, hoff, State.hostWriteReg, Width.aligned, Width.bytes, halign]

theorem not_aligned_w8 {w : Width} {off : Nat} (h : w ≠ .w8 ∨ off % 8 ≠ 0) : ¬ (w = .w8 ∧ w.aligned off = true) := by
  rintro ⟨rfl, halign⟩
  simp [Width.aligned, Width.bytes] at halign
  simp [halign] at h

theorem hostAccess_read_other (s : State) {w : Width} {off : Nat} (h : w ≠ .w8 ∨ off % 8 ≠ 0) (hoff : off < Config.regBytes) :
    hostAccess s (.read .regs w off) = .next (s.answer 0) := by
  rw [hostAccess, if_pos hoff, State.hostReadReg, if_neg (not_aligned_w8 h)]

theorem hostAccess_write_other (s : State) {w : Width} {off : Nat} (v : B64) (h : w ≠ .w8 ∨ off % 8 ≠ 0)
    (hoff : off < Config.regBytes) : hostAccess s (.write .regs w off v) = .next s := by
  rw [hostAccess, if_pos hoff, State.hostWriteReg, if_neg (not_aligned_w8 h)]

/-! ### What a register reads -/

@[simp] theorem idWord_eq : idWord = 0x4E45495201000408 := by decide

@[simp] theorem State.ctrlWord_eq (s : State) : s.ctrlWord = if s.ie then 1 else 0 := by
  unfold State.ctrlWord
  cases s.ie <;> rfl

@[simp] theorem State.regRead_id (s : State) : s.regRead 0x000 = idWord := rfl
@[simp] theorem State.regRead_ctrl (s : State) : s.regRead 0x008 = s.ctrlWord := rfl
@[simp] theorem State.regRead_status (s : State) : s.regRead 0x010 = s.status.word := rfl
@[simp] theorem State.regRead_cmd (s : State) : s.regRead 0x018 = 0 := rfl
@[simp] theorem State.regRead_cTabs (s : State) : s.regRead 0xEA0 = cTabs := rfl
@[simp] theorem State.regRead_cW51 (s : State) : s.regRead 0xEA8 = cW51 := rfl
@[simp] theorem State.regRead_cLofs (s : State) : s.regRead 0xEB0 = cLofs := rfl

theorem State.regRead_arg (s : State) (i : Fin 8) : s.regRead (0x020 + 8 * i) = s.arg[i] := by
  simp (disch := omega) only [State.regRead, if_neg, if_pos]
  simp

theorem State.regRead_res (s : State) (i : Fin 8) : s.regRead (0x060 + 8 * i) = s.res[i] := by
  simp (disch := omega) only [State.regRead, if_neg, if_pos]
  simp

theorem State.regRead_slotArea (s : State) {off : Nat} (hlo : 0x100 ≤ off) (hhi : off < 0x900) :
    s.regRead off = s.slotWord (off - 0x100) := by
  simp (disch := omega) only [State.regRead, if_neg, if_pos]

theorem State.regRead_tpRom (s : State) {j : Nat} (hj : j < 48) : s.regRead (0xC00 + 8 * j) = tpRom.getD j 0 := by
  simp (disch := omega) only [State.regRead, if_neg, if_pos]
  simp

theorem State.regRead_kwRom (s : State) {j : Nat} (hj : j < 20) : s.regRead (0xE00 + 8 * j) = kwRom.getD j 0 := by
  simp (disch := omega) only [State.regRead, if_neg, if_pos]
  simp

/-- R42: slot `k` is 0x80 bytes, its field `f` at byte `8·f`. -/
theorem State.regRead_slotField (s : State) (k : Fin Config.nbq) {f : Nat} (hf : f < 16) :
    s.regRead (0x100 + 8 * f + 0x80 * k) = s.slots[k].field f := by
  have hk : k.val < 4 := k.isLt
  have hslot : (0x100 + 8 * f + 0x80 * k.val - 0x100) / 0x80 = k.val := by omega
  have hfield : (0x100 + 8 * f + 0x80 * k.val - 0x100) % 0x80 / 8 = f := by omega
  rw [s.regRead_slotArea (by omega) (by omega), State.slotWord, hslot, hfield]
  simp

theorem Biquad.field_of_ge (q : Biquad) {f : Nat} (hf : 9 ≤ f) : q.field f = 0 := by
  obtain ⟨n, rfl⟩ := Nat.exists_eq_add_of_le' hf
  rfl

/-- R40: an absent slot, and a field past Y2, read 0. -/
theorem State.slotWord_of_absent (s : State) {d : Nat} (h : Config.nbq ≤ d / 0x80 ∨ 9 ≤ d % 0x80 / 8) : s.slotWord d = 0 := by
  unfold State.slotWord
  split
  case h_1 q hq =>
    have hlt : d / 0x80 < Config.nbq := by simpa using (Vector.getElem?_eq_some_iff.1 hq).1
    exact q.field_of_ge (by omega)
  case h_2 => rfl

/-- The offsets between the areas of the register map are reserved (R40). -/
theorem State.regRead_gap (s : State) {off : Nat}
    (h : 0x0A0 ≤ off ∧ off < 0x100 ∨ 0x900 ≤ off ∧ off < 0xC00 ∨ 0xD80 ≤ off ∧ off < 0xE00 ∨ 0xEB8 ≤ off) :
    s.regRead off = 0 := by
  rcases h with h | h | h | h <;> simp (disch := omega) only [State.regRead, if_neg, if_pos]

/-! ### What a register write does -/

@[simp] theorem State.regWrite_ctrl (s : State) (v : B64) : s.regWrite 0x008 v = s.ctrlWrite v := rfl
@[simp] theorem State.regWrite_status (s : State) (v : B64) :
    s.regWrite 0x010 v = { s with status := s.status.writeOneToClear v } := rfl
@[simp] theorem State.regWrite_cmd (s : State) (v : B64) : s.regWrite 0x018 v = s.issue v := rfl

theorem State.regWrite_arg (s : State) (i : Fin 8) (v : B64) :
    s.regWrite (0x020 + 8 * i) v = { s with arg := s.arg.set i v } := by
  simp (disch := omega) only [State.regWrite, if_neg, if_pos]
  simp [Vector.setIfInBounds, Vector.set, Array.setIfInBounds]

/-- R40: a write to ID, and to anything from RES0 on, is ignored. -/
theorem State.regWrite_readOnly (s : State) {off : Nat} (v : B64) (h : off = 0x000 ∨ 0x060 ≤ off) : s.regWrite off v = s := by
  rcases h with rfl | h
  · rfl
  · simp (disch := omega) only [State.regWrite, if_neg]

/-! ### The fields of STATUS -/

/-- R35: the bits of STATUS. -/
theorem Status.getLsbD_word (st : Status) (i : Nat) : st.word.getLsbD i =
    if i = 0 then st.busy else if i = 1 then st.done else if i = 2 then st.err else if i = 3 then st.ovr
    else if i = 4 then st.coll else if i < 8 then false else if i < 16 then st.errcode.getLsbD (i - 8)
    else st.lastop.getLsbD (i - 16) := by
  unfold Status.word
  repeat rw [BitVec.getLsbD_append]
  rcases i with _ | _ | _ | _ | _ | i <;> simp [Nat.sub_sub]
  have hlastop : st.lastop.getLsbD (i - 11) = (decide (i - 11 < 8) && st.lastop.getLsbD (i - 11)) := by
    simpa using BitVec.lt_of_getLsbD
  rw [← hlastop]
  congr 1
  · simp; omega
  · simp only [show i - 3 < 8 ↔ i + 1 + 1 + 1 + 1 + 1 < 16 by omega]

theorem Status.word_flags (st : Status) :
    st.word.getLsbD 0 = st.busy ∧ st.word.getLsbD 1 = st.done ∧ st.word.getLsbD 2 = st.err ∧
      st.word.getLsbD 3 = st.ovr ∧ st.word.getLsbD 4 = st.coll := by
  refine ⟨?_, ?_, ?_, ?_, ?_⟩ <;> exact st.getLsbD_word _

theorem Status.word_fields (st : Status) :
    st.word.extractLsb' 5 3 = 0 ∧ st.word.extractLsb' 8 8 = st.errcode ∧ st.word.extractLsb' 16 8 = st.lastop ∧
      st.word.extractLsb' 24 40 = 0 := by
  refine ⟨?_, ?_, ?_, ?_⟩ <;> apply BitVec.eq_of_getLsbD_eq <;> intro i hi <;>
    simp only [BitVec.getLsbD_extractLsb', Status.getLsbD_word, hi, decide_true, Bool.true_and]
  · simp (disch := omega) [if_neg, if_pos]
  · simp (disch := omega) [if_neg, if_pos]
  · simp (disch := omega) [if_neg]
  · simp (disch := omega) [if_neg]

/-! ### The statements about the register window -/

theorem step_of_pending_host {s : State} {a : Access} {rest : List Turn} (h : s.pending = .host a :: rest) :
    step s = hostAccess { s with pending := rest } a := by
  simp only [step, h, takeTurn]

theorem step_of_pending_hardReset {s : State} {rest : List Turn} (h : s.pending = .hardReset :: rest) :
    step s = .next ({ s with pending := rest } : State).hardReset := by
  simp only [step, h, takeTurn]

theorem Status.writeOneToClear_eq (st : Status) (v : B64) : st.writeOneToClear v =
    { st with
      done := if v.getLsbD 1 then false else st.done
      err := if v.getLsbD 2 then false else st.err
      ovr := if v.getLsbD 3 then false else st.ovr
      coll := if v.getLsbD 4 then false else st.coll } := by
  have hclear : ∀ b c : Bool, (b && !c) = if c then false else b := by decide
  simp only [Status.writeOneToClear, hclear]

/-- Settles O10: BUSY plays no part in a STATUS write. -/
theorem statusWriteOneToClear : Obligations.StatusWriteOneToClear := by
  intro s v rest h
  rw [step_of_pending_host h, hostAccess_write_aligned _ _ (by norm_num) (by norm_num), State.regWrite_status,
    Status.writeOneToClear_eq]

/-- Settles O17. The two clauses are the two branches of R41. -/
theorem otherRegisterAccessIsRefused : Obligations.OtherRegisterAccessIsRefused := by
  intro s w off v hoff
  refine ⟨fun h => ⟨hostAccess_read_other s h hoff, hostAccess_write_other s v h hoff⟩, ?_⟩
  rintro rfl halign
  exact hostAccess_read_aligned s halign hoff

/-- Settles O18: ARGi is the register at 0x020 + 8·i. -/
theorem argWriteKeepsLatches : Obligations.ArgWriteKeepsLatches := by
  intro s i v
  rw [hostAccess_write_aligned s v (by omega) (by simp only [Config.regBytes]; omega), s.regWrite_arg]

/-- Settles O16: the gaps of the register map read 0 by `regRead_gap`, the gaps inside the slot area by
`slotWord_of_absent`. -/
theorem reservedOffsetsAreInert : Obligations.ReservedOffsetsAreInert := by
  intro s off v halign hoff
  constructor
  · intro h
    rw [hostAccess_read_aligned s halign hoff]
    suffices hzero : s.regRead off = 0 by rw [hzero]; rfl
    by_cases hslot : 0x100 ≤ off ∧ off < 0x900
    · obtain ⟨hlo, hhi⟩ := hslot
      rw [s.regRead_slotArea hlo hhi, s.slotWord_of_absent (by omega)]
    · exact s.regRead_gap (by omega)
  · intro h
    rw [hostAccess_write_aligned s v halign hoff, s.regWrite_readOnly v h]

/-- An aligned read of a register whose value is known. -/
theorem hostAccess_read_of_regRead {s : State} {off : Nat} {v : B64} (halign : off % 8 = 0) (hoff : off < 4096)
    (h : s.regRead off = v) : hostAccess s (.read .regs .w8 off) = .next { s with readData := some v } := by
  rw [hostAccess_read_aligned s halign hoff, h]
  rfl

theorem hostAccess_read_slotField (s : State) (k : Fin Config.nbq) {f : Nat} (hf : f < 16) :
    hostAccess s (.read .regs .w8 (0x100 + 8 * f + 0x80 * k)) = .next { s with readData := some (s.slots[k].field f) } := by
  have hk : k.val < 4 := k.isLt
  exact hostAccess_read_of_regRead (by omega) (by omega) (s.regRead_slotField k hf)

/-- The ROMs hold the patterns of R275 and R201. -/
theorem tpRom_eq_tpPatterns : tpRom = tpPatterns := rfl

theorem kwRom_eq_kwPatterns : kwRom = kwPatterns := rfl

/-- Settles O15: the read of each register, by the area of the map it is in. -/
theorem registerMapReads : Obligations.RegisterMapReads := by
  intro s reads
  refine ⟨?id, ?ctrl, ?status, ?cmd, ?arg, ?res, ?slot, ?tpRom, ?kwRom, ?cTabs, ?cW51, ?cLofs⟩
  case id => exact hostAccess_read_of_regRead (by norm_num) (by norm_num) (s.regRead_id.trans idWord_eq)
  case ctrl => exact hostAccess_read_of_regRead (by norm_num) (by norm_num) (s.regRead_ctrl.trans s.ctrlWord_eq)
  case status =>
    obtain ⟨hbusy, hdone, herr, hovr, hcoll⟩ := s.status.word_flags
    obtain ⟨hlow, herrcode, hlastop, hhigh⟩ := s.status.word_fields
    exact ⟨s.status.word, hostAccess_read_of_regRead (by norm_num) (by norm_num) s.regRead_status, hbusy, hdone, herr, hovr,
      hcoll, hlow, herrcode, hlastop, hhigh⟩
  case cmd => exact hostAccess_read_of_regRead (by norm_num) (by norm_num) s.regRead_cmd
  case arg => exact fun i => hostAccess_read_of_regRead (by omega) (by omega) (s.regRead_arg i)
  case res => exact fun i => hostAccess_read_of_regRead (by omega) (by omega) (s.regRead_res i)
  case slot =>
    intro k
    have field {f : Nat} (hf : f < 16) := hostAccess_read_slotField s k hf
    exact ⟨field (f := 0) (by norm_num), field (f := 1) (by norm_num), field (f := 2) (by norm_num),
      field (f := 3) (by norm_num), field (f := 4) (by norm_num), field (f := 5) (by norm_num),
      field (f := 6) (by norm_num), field (f := 7) (by norm_num), field (f := 8) (by norm_num)⟩
  case tpRom =>
    intro p k hp hk
    rw [← tpRom_eq_tpPatterns]
    exact hostAccess_read_of_regRead (by omega) (by omega) (s.regRead_tpRom (by omega))
  case kwRom =>
    intro r g c hr hg hc
    rw [← kwRom_eq_kwPatterns]
    exact hostAccess_read_of_regRead (by omega) (by omega) (s.regRead_kwRom (by omega))
  case cTabs => exact hostAccess_read_of_regRead (by norm_num) (by norm_num) s.regRead_cTabs
  case cW51 => exact hostAccess_read_of_regRead (by norm_num) (by norm_num) s.regRead_cW51
  case cLofs => exact hostAccess_read_of_regRead (by norm_num) (by norm_num) s.regRead_cLofs

end Sys2Proof.Machine
end

section
/-!
PROOF. What a host access inside its window can do to the state, said once, and the interrupt output (10_state.md R69,
60_exceptions.md R310).
-/

namespace Sys2Proof.Machine

/-- The next states a host access can give. A DMEM write that is not dropped or refused stores its bytes inside DMEM. -/
inductive HostEffect (s : State) : Access → State → Prop where
  | ignored (a : Access) : HostEffect s a s
  | answered (win : Window) (w : Width) (off : Nat) (v : B64) : HostEffect s (.read win w off) (s.answer v)
  | readCollides (w : Width) (off : Nat) : HostEffect s (.read .dmem w off) (s.answer 0).collide
  | writeCollides (w : Width) (off : Nat) (v : B64) : HostEffect s (.write .dmem w off v) s.collide
  | stored (w : Width) (off : Nat) (v : B64) (hfit : off + w.bytes ≤ Config.dmemBytes) :
    HostEffect s (.write .dmem w off v) (s.memWrite off w.bytes v.toNat)
  | ctrl (v : B64) : HostEffect s (.write .regs .w8 0x008 v) (s.ctrlWrite v)
  | status (v : B64) : HostEffect s (.write .regs .w8 0x010 v) { s with status := s.status.writeOneToClear v }
  | cmd (v : B64) : HostEffect s (.write .regs .w8 0x018 v) (s.issue v)
  | arg (off : Nat) (v : B64) (arg : Vector B64 8) : HostEffect s (.write .regs .w8 off v) { s with arg := arg }

/-- DMEM_BYTES is a multiple of every access width, so an aligned access that begins in DMEM ends in it. -/
theorem Width.aligned_fits {w : Width} {off : Nat} (halign : w.aligned off = true) (hoff : off < Config.dmemBytes) :
    off + w.bytes ≤ Config.dmemBytes := by
  cases w <;> simp only [Width.aligned, Width.bytes, Config.dmemBytes, beq_iff_eq] at halign hoff ⊢ <;> omega

theorem regWrite_effect (s : State) (off : Nat) (v : B64) : HostEffect s (.write .regs .w8 off v) (s.regWrite off v) := by
  unfold State.regWrite
  split_ifs with hctrl hstatus hcmd
  · exact hctrl ▸ .ctrl v
  · exact hstatus ▸ .status v
  · exact hcmd ▸ .cmd v
  · exact .ignored _
  · exact .arg off v _
  · exact .ignored _

theorem hostReadReg_effect (s : State) (w : Width) (off : Nat) : HostEffect s (.read .regs w off) (s.hostReadReg w off) := by
  unfold State.hostReadReg
  split <;> exact .answered ..

theorem hostWriteReg_effect (s : State) (w : Width) (off : Nat) (v : B64) :
    HostEffect s (.write .regs w off v) (s.hostWriteReg w off v) := by
  unfold State.hostWriteReg
  split
  case isTrue h => exact h.1 ▸ regWrite_effect s off v
  case isFalse => exact .ignored _

theorem hostReadDmem_effect (s : State) (w : Width) (off : Nat) : HostEffect s (.read .dmem w off) (s.hostReadDmem w off) := by
  unfold State.hostReadDmem
  split_ifs
  · exact .readCollides w off
  · exact .answered ..
  · exact .answered ..

theorem hostWriteDmem_effect (s : State) (w : Width) {off : Nat} (v : B64) (hoff : off < Config.dmemBytes) :
    HostEffect s (.write .dmem w off v) (s.hostWriteDmem w off v) := by
  unfold State.hostWriteDmem
  split_ifs with hbusy halign
  · exact .writeCollides w off v
  · exact .stored w off v (Width.aligned_fits halign hoff)
  · exact .ignored _

/-- A host access inside its window gives a next state, one of `HostEffect`. -/
theorem hostAccess_inside (s : State) {a : Access} (ha : a.inside) : ∃ t, hostAccess s a = .next t ∧ HostEffect s a t := by
  rcases a with ⟨_ | _, w, off⟩ | ⟨_ | _, w, off, v⟩
  · exact ⟨_, if_pos ha, hostReadReg_effect s w off⟩
  · exact ⟨_, if_pos ha, hostReadDmem_effect s w off⟩
  · exact ⟨_, if_pos ha, hostWriteReg_effect s w off v⟩
  · exact ⟨_, if_pos ha, hostWriteDmem_effect s w v ha⟩

theorem hostAccess_outside (s : State) {a : Access} (ha : ¬ a.inside) :
    hostAccess s a = .fault (.outsideWindow a.window a.offset) := by
  rcases a with ⟨_ | _, w, off⟩ | ⟨_ | _, w, off, v⟩ <;> exact if_neg ha

theorem hostAccess_effect {s t : State} {a : Access} (h : hostAccess s a = .next t) : HostEffect s a t := by
  by_cases ha : a.inside
  · obtain ⟨u, hu, heffect⟩ := hostAccess_inside s ha
    rw [hu] at h
    exact Host.Outcome.next.inj h ▸ heffect
  · rw [hostAccess_outside s ha] at h
    cases h

/-- R142: an engine turn with BUSY = 1 completes the command in flight. -/
theorem engineStep_completes {s : State} (hbusy : s.status.busy = true) : ∃ t, engineStep s = .next t ∧ Completes s t := by
  rcases engineStep_cases s with ⟨hidle, -⟩ | ⟨-, ⟨i, -, h⟩ | ⟨e, -, h⟩⟩
  · simp [hidle] at hbusy
  · rw [h]
    exact exec_completes i s
  · exact ⟨_, h, .error _⟩

theorem step_of_pending_engine {s : State} {rest : List Turn} (h : s.pending = .engine :: rest) :
    step s = engineStep { s with pending := rest } := by
  simp only [step, h, takeTurn]

/-! ### The interrupt output -/

theorem State.irq_of_done {s : State} (h : s.status.done = true) : s.irq = s.ie := by simp [State.irq, h]

theorem State.irq_of_not_done {s : State} (h : s.status.done = false) : s.irq = false := by simp [State.irq, h]

/-- R69: the level the host computes from its reads of CTRL and STATUS. -/
theorem State.irq_eq_read (s : State) : s.irq = ((s.regRead 0x008).getLsbD 0 && (s.regRead 0x010).getLsbD 1) := by
  obtain ⟨-, hdone, -⟩ := s.status.word_flags
  rw [s.regRead_ctrl, s.regRead_status, hdone, s.ctrlWord_eq, State.irq]
  cases s.ie <;> rfl

theorem Completes.irq {s t : State} (h : Completes s t) : t.irq = s.ie := by
  cases h with
  | error e => exact State.irq_of_done rfl
  | success slots res dmem kwpre kwrlb => exact State.irq_of_done rfl

/-- No host access but a STATUS write with bit 1, a CTRL write or an accept moves IRQ. -/
theorem HostEffect.irq {s t : State} {a : Access} (h : HostEffect s a t)
    (hstatus : ∀ v, a = .write .regs .w8 0x010 v → v.getLsbD 1 = false) (hctrl : ∀ v, a ≠ .write .regs .w8 0x008 v)
    (hcmd : ∀ v, a = .write .regs .w8 0x018 v → s.status.busy = true) : t.irq = s.irq := by
  cases h with
  | ctrl v => exact absurd rfl (hctrl v)
  | status v => simp only [State.irq, Status.writeOneToClear_done, hstatus v rfl, Bool.not_false, Bool.and_true]
  | cmd v => simp [State.irq, State.issue, hcmd v rfl]
  | ignored | answered | readCollides | writeCollides | stored | arg => rfl

/-- Settles O14: each event sets or clears DONE or IE by its own rule, and `HostEffect.irq` is the frame of all other host
accesses. -/
theorem interruptFollowsDone : Obligations.InterruptFollowsDone := by
  refine ⟨State.irq_eq_read, ?completion, ?statusWrite, ?ctrlWrite, ?accept, ?softReset, ?hardReset, ?others⟩
  case completion =>
    intro s rest hpending hbusy
    obtain ⟨t, ht, hcompletes⟩ := engineStep_completes (s := { s with pending := rest }) hbusy
    exact ⟨t, (step_of_pending_engine hpending).trans ht, hcompletes.irq⟩
  case statusWrite =>
    intro s v hv
    exact ⟨_, hostAccess_write_aligned s v (by norm_num) (by norm_num), State.irq_of_not_done (by simp [hv])⟩
  case ctrlWrite =>
    intro s v hv
    refine ⟨{ s with ie := v.getLsbD 0 }, ?_, rfl, rfl⟩
    rw [hostAccess_write_aligned s v (by norm_num) (by norm_num), s.regWrite_ctrl, State.ctrlWrite, if_neg (Bool.eq_false_iff.1 hv)]
  case accept =>
    intro s v hidle
    refine ⟨s.accept v, ?_, State.irq_of_not_done rfl⟩
    rw [hostAccess_write_aligned s v (by norm_num) (by norm_num), s.regWrite_cmd, State.issue, if_neg (Bool.eq_false_iff.1 hidle)]
  case softReset =>
    intro s v hv
    refine ⟨s.softReset, ?_, State.irq_of_not_done rfl⟩
    rw [hostAccess_write_aligned s v (by norm_num) (by norm_num), s.regWrite_ctrl, State.ctrlWrite, if_pos hv]
  case hardReset =>
    intro s rest hpending
    exact ⟨_, step_of_pending_hardReset hpending, State.irq_of_not_done rfl⟩
  case others =>
    intro s a ha hstatus hctrl hcmd
    obtain ⟨t, ht, heffect⟩ := hostAccess_inside s ha
    exact ⟨t, ht, heffect.irq hstatus hctrl hcmd⟩

end Sys2Proof.Machine
end

section
/-!
PROOF. What a command reads and what its completion writes (40_common.md R141, R152), one rule per state operation. The
statement on slots (10_state.md R63) follows here; the invariant and the hidden state use the same rules.
-/

namespace Sys2Proof.Machine

/-! ### What a command writes -/

/-- The state with other internal filters (R66). -/
def State.withFilters (u : State) (pre rlb : Biquad) : State := { u with kwpre := pre, kwrlb := rlb }

/-- What the completion of a command that names the slot `named` may do to a state: it passes over the internal filters
and every slot it does not name, keeps DMEM canonical, and never writes RES6 and RES7. -/
structure CommandEffect (named : Option Nat) (F : State → State) : Prop where
  filters : ∀ u pre rlb, ∃ pre' rlb', F (u.withFilters pre rlb) = (F u).withFilters pre' rlb'
  keepsSlot : ∀ u (k : Fin Config.nbq), named ≠ some k.val → (F u).slots[k] = u.slots[k]
  passesSlot : ∀ u (k : Fin Config.nbq) f, named ≠ some k.val → F (u.setSlot k f) = (F u).setSlot k f
  dmem : ∀ u, Dmem.wf u.dmem = true → Dmem.wf (F u).dmem = true
  res6 : ∀ u, (F u).res[6] = u.res[6]
  res7 : ∀ u, (F u).res[7] = u.res[7]

namespace CommandEffect

variable {named : Option Nat} {F G : State → State}

theorem comp (hG : CommandEffect named G) (hF : CommandEffect named F) : CommandEffect named fun u => G (F u) where
  filters u pre rlb := by
    obtain ⟨pre', rlb', h⟩ := hF.filters u pre rlb
    rw [h]
    exact hG.filters (F u) pre' rlb'
  keepsSlot u k hk := (hG.keepsSlot _ k hk).trans (hF.keepsSlot u k hk)
  passesSlot u k f hk := by rw [hF.passesSlot u k f hk, hG.passesSlot _ k f hk]
  dmem u hu := hG.dmem _ (hF.dmem u hu)
  res6 u := (hG.res6 _).trans (hF.res6 u)
  res7 u := (hG.res7 _).trans (hF.res7 u)

/-- An operation that touches neither the filters, the slots, DMEM nor RES. -/
theorem of_frame (hfilters : ∀ u pre rlb, F (u.withFilters pre rlb) = (F u).withFilters pre rlb)
    (hpasses : ∀ u k f, F (u.setSlot k f) = (F u).setSlot k f) (hslots : ∀ u, (F u).slots = u.slots)
    (hdmem : ∀ u, (F u).dmem = u.dmem) (hres : ∀ u, (F u).res = u.res) : CommandEffect named F where
  filters u pre rlb := ⟨pre, rlb, hfilters u pre rlb⟩
  keepsSlot u k _ := by rw [hslots]
  passesSlot u k f _ := hpasses u k f
  dmem u hu := by rwa [hdmem]
  res6 u := by rw [hres]
  res7 u := by rw [hres]

theorem refl : CommandEffect named fun u => u :=
  of_frame (fun _ _ _ => rfl) (fun _ _ _ => rfl) (fun _ => rfl) (fun _ => rfl) (fun _ => rfl)

theorem raise (e : ErrCode) : CommandEffect named fun u => u.raise e :=
  of_frame (fun _ _ _ => rfl) (fun _ _ _ => rfl) (fun _ => rfl) (fun _ => rfl) (fun _ => rfl)

theorem finish (hF : CommandEffect named F) : CommandEffect named fun u => (F u).finish :=
  comp (of_frame (fun _ _ _ => rfl) (fun _ _ _ => rfl) (fun _ => rfl) (fun _ => rfl) (fun _ => rfl)) hF

theorem setKwFilters (r : KwRate) (xs : List B32) : CommandEffect named fun u => u.setKwFilters r xs where
  filters _ _ _ := ⟨(kwPrePass r xs).2, (kwRlbPass r xs).2, rfl⟩
  keepsSlot _ _ _ := rfl
  passesSlot _ _ _ _ := rfl
  dmem _ hu := hu
  res6 _ := rfl
  res7 _ := rfl

theorem setSlot {j : Fin Config.nbq} (hj : named = some j.val) (g : Biquad) : CommandEffect named fun u => u.setSlot j g where
  filters _ pre rlb := ⟨pre, rlb, rfl⟩
  keepsSlot _ k hk := by
    have hne : j.val ≠ k.val := fun h => hk (h ▸ hj)
    simp [Vector.getElem_set_ne, hne]
  passesSlot u k f hk := by
    have hne : k.val ≠ j.val := fun h => hk (h ▸ hj)
    simp only [State.setSlot, Vector.set_comm _ _ hne]
  dmem _ hu := hu
  res6 _ := rfl
  res7 _ := rfl

theorem setRes (hF : CommandEffect named F) {i : Fin 8} (hi : i.val < 6) (v : B64) :
    CommandEffect named fun u => (F u).setRes i v :=
  comp (G := fun u => u.setRes i v)
    { filters := fun _ pre rlb => ⟨pre, rlb, rfl⟩
      keepsSlot := fun _ _ _ => rfl
      passesSlot := fun _ _ _ _ => rfl
      dmem := fun _ hu => hu
      res6 := fun _ => Vector.getElem_set_ne i.isLt _ (by omega)
      res7 := fun _ => Vector.getElem_set_ne i.isLt _ (by omega) }
    hF

theorem setLufs (hF : CommandEffect named F) (nblk : Nat) (r : Gated) : CommandEffect named fun u => (F u).setLufs nblk r :=
  hF.setRes (i := 0) (by decide) _ |>.setRes (i := 1) (by decide) _ |>.setRes (i := 2) (by decide) _
    |>.setRes (i := 3) (by decide) _ |>.setRes (i := 4) (by decide) _ |>.setRes (i := 5) (by decide) _

theorem setLufsEmpty : CommandEffect named State.setLufsEmpty :=
  refl.setRes (i := 0) (by decide) _ |>.setRes (i := 1) (by decide) _ |>.setRes (i := 2) (by decide) _
    |>.setRes (i := 3) (by decide) _ |>.setRes (i := 4) (by decide) _ |>.setRes (i := 5) (by decide) _

theorem memWrite {a n : Nat} (v : Nat) (h : a + n ≤ Config.dmemBytes) : CommandEffect named fun u => u.memWrite a n v where
  filters _ pre rlb := ⟨pre, rlb, rfl⟩
  keepsSlot _ _ _ := rfl
  passesSlot _ _ _ _ := rfl
  dmem _ hu := Dmem.wf_writeLE n hu h
  res6 _ := rfl
  res7 _ := rfl

theorem storeSamples (vs : List B32) : ∀ {a : Nat}, inRange a (4 * vs.length) = true →
    CommandEffect named fun u => u.storeSamples a vs := by
  induction vs with
  | nil => exact fun _ => refl
  | cons v vs ih =>
    intro a h
    rw [inRange_iff, List.length_cons] at h
    exact comp (ih ((inRange_iff _ _).2 (by omega))) (memWrite v.toNat (by omega))

theorem storePowers (vs : List B64) : ∀ {a : Nat}, inRange a (8 * vs.length) = true →
    CommandEffect named fun u => u.storePowers a vs := by
  induction vs with
  | nil => exact fun _ => refl
  | cons v vs ih =>
    intro a h
    rw [inRange_iff, List.length_cons] at h
    exact comp (ih ((inRange_iff _ _).2 (by omega))) (memWrite v.toNat (by omega))

end CommandEffect

/-! ### What a command reads -/

/-- The two states hold the same in everything that a command naming the slot `named` reads. -/
structure SameInputs (named : Option Nat) (s u : State) : Prop where
  argl : u.argl = s.argl
  dmem : u.dmem = s.dmem
  resets : u.resets = s.resets
  slot : ∀ k : Fin Config.nbq, named = some k.val → u.slots[k] = s.slots[k]

theorem SameInputs.setSlot (s : State) {named : Option Nat} {k : Fin Config.nbq} (hk : named ≠ some k.val) (f : Biquad) :
    SameInputs named s (s.setSlot k f) where
  argl := rfl
  dmem := rfl
  resets := rfl
  slot j hj := by
    have hne : k.val ≠ j.val := fun h => hk (h ▸ hj)
    simp [Vector.getElem_set_ne, hne]

theorem SameInputs.refl (named : Option Nat) (s : State) : SameInputs named s s := ⟨rfl, rfl, rfl, fun _ _ => rfl⟩

namespace SameInputs

variable {named : Option Nat} {s u : State} (h : SameInputs named s u)
include h

theorem argB (i : Fin 8) : u.argB i = s.argB i := by rw [State.argB, State.argB, h.argl]

theorem argU (i : Fin 8) : u.argU i = s.argU i := by rw [State.argU, State.argU, h.argl]

theorem memRead (a n : Nat) : u.memRead a n = s.memRead a n :=
  State.memRead_congr n fun j _ => by rw [State.byteAt, State.byteAt, h.dmem, h.resets]

theorem loadSamples (a n : Nat) : u.loadSamples a n = s.loadSamples a n := by
  simp only [State.loadSamples, State.loadS, h.memRead]

end SameInputs

/-- The slot a command with the field `slot` writes is the one it names. -/
theorem namedSlot_of_slotIndex {slot : BitVec 4} {k : Fin Config.nbq} (h : slotIndex slot = some k) :
    some slot.toNat = some k.val := by
  rw [slotIndex_eq_some h]

/-- On every state with the inputs of `s`, the meaning `m` of a command is one and the same effect. -/
def HasEffect (named : Option Nat) (m : State → Host.Outcome State Fault Refusal) (s : State) : Prop :=
  ∃ F, CommandEffect named F ∧ ∀ u, SameInputs named s u → m u = .next (F u)

theorem HasEffect.of_raise {named : Option Nat} {m : State → Host.Outcome State Fault Refusal} {s : State} (e : ErrCode)
    (h : ∀ u, SameInputs named s u → m u = .next (u.raise e)) : HasEffect named m s :=
  ⟨_, .raise e, h⟩

theorem execNop_effect (s : State) : HasEffect none execNop s := ⟨_, CommandEffect.refl.finish, fun _ _ => rfl⟩

theorem execBqLoad_effect (slot : BitVec 4) (s : State) : HasEffect (some slot.toNat) (execBqLoad slot) s := by
  cases hk : slotIndex slot with
  | none => exact .of_raise .illcmd fun u _ => by simp only [execBqLoad, hk]
  | some k =>
    let f := constructed (s.argB 0) (s.argB 1) (s.argB 2) (s.argB 3) (s.argB 4) (s.argB 5)
    exact ⟨_, (CommandEffect.setSlot (namedSlot_of_slotIndex hk) f).finish,
      fun u h => by simp only [execBqLoad, hk, h.argB, f]⟩

theorem execBqReset_effect (slot : BitVec 4) (s : State) : HasEffect (some slot.toNat) (execBqReset slot) s := by
  cases hk : slotIndex slot with
  | none => exact .of_raise .illcmd fun u _ => by simp only [execBqReset, hk]
  | some k =>
    have hnamed := namedSlot_of_slotIndex hk
    exact ⟨_, (CommandEffect.setSlot hnamed s.slots[k].zeroState).finish,
      fun u h => by simp only [execBqReset, hk, h.slot k hnamed]⟩

theorem execBqStep_effect (slot : BitVec 4) (s : State) : HasEffect (some slot.toNat) (execBqStep slot) s := by
  cases hk : slotIndex slot with
  | none => exact .of_raise .illcmd fun u _ => by simp only [execBqStep, hk]
  | some k =>
    have hnamed := namedSlot_of_slotIndex hk
    let y := df1 s.slots[k] (s.argB 0)
    exact ⟨_, ((CommandEffect.setSlot hnamed y.2).setRes (i := 0) (by decide) y.1).finish,
      fun u h => by simp only [execBqStep, hk, h.slot k hnamed, h.argB, y]⟩

theorem execBqRun_effect (slot : BitVec 4) (s : State) : HasEffect (some slot.toNat) (execBqRun slot) s := by
  cases hk : slotIndex slot with
  | none => exact .of_raise .illcmd fun u _ => by simp only [execBqRun, hk]
  | some k =>
    have hnamed := namedSlot_of_slotIndex hk
    cases hcheck : firstError (bufferChecks (s.argU 0) (s.argU 1) (s.argU 2)) with
    | some e => exact .of_raise e fun u h => by simp only [execBqRun, hk, h.argU, hcheck]
    | none =>
      obtain ⟨-, ⟨-, hdst⟩, -⟩ := (bufferChecks_pass _ _ _).1 hcheck
      let out := runFilter s.slots[k] (s.loadSamples (s.argU 0) (s.argU 2))
      have hstore : inRange (s.argU 1) (4 * out.1.length) = true := by
        rwa [length_runFilter, State.length_loadSamples]
      exact ⟨_, ((CommandEffect.storeSamples out.1 hstore).comp (.setSlot hnamed out.2)).finish,
        fun u h => by simp only [execBqRun, hk, h.argU, hcheck, h.slot k hnamed, h.loadSamples, out]⟩

theorem execKwApply_effect (s : State) : HasEffect none execKwApply s := by
  cases hrate : rateOf (s.argU 3) with
  | none => exact .of_raise .rate fun u h => by simp only [execKwApply, h.argU, hrate]
  | some r =>
    cases hcheck : firstError (bufferChecks (s.argU 0) (s.argU 1) (s.argU 2)) with
    | some e => exact .of_raise e fun u h => by simp only [execKwApply, h.argU, hrate, hcheck]
    | none =>
      obtain ⟨-, ⟨-, hdst⟩, -⟩ := (bufferChecks_pass _ _ _).1 hcheck
      let xs := s.loadSamples (s.argU 0) (s.argU 2)
      have hstore : inRange (s.argU 1) (4 * (kWeight r xs).length) = true := by
        rwa [length_kWeight, State.length_loadSamples]
      exact ⟨_, ((CommandEffect.storeSamples (kWeight r xs) hstore).comp (.setKwFilters r xs)).finish,
        fun u h => by simp only [execKwApply, h.argU, hrate, hcheck, h.loadSamples, xs]⟩

theorem execLufsMeasure_effect (nch : BitVec 4) (s : State) : HasEffect none (execLufsMeasure nch) s := by
  by_cases hmany : Config.chMax < nch.toNat
  · exact .of_raise .illcmd fun u _ => by simp only [execLufsMeasure, if_pos hmany]
  by_cases hzero : nch.toNat = 0
  · exact ⟨_, CommandEffect.setLufsEmpty.finish, fun u _ => by simp only [execLufsMeasure, if_neg hmany, if_pos hzero]⟩
  cases hrate : rateOf (s.argU 3) with
  | none => exact .of_raise .rate fun u h => by simp only [execLufsMeasure, if_neg hmany, if_neg hzero, h.argU, hrate]
  | some r =>
    let nblk := blockCount r (s.argU 2)
    cases hcheck : firstError (lufsChecks (s.argU 0) (s.argU 1) (s.argU 2) (s.argU 4) nblk nch.toNat) with
    | some e =>
      exact .of_raise e fun u h => by simp only [execLufsMeasure, if_neg hmany, if_neg hzero, h.argU, hrate, hcheck, nblk]
    | none =>
      obtain ⟨-, ⟨-, hbp⟩, -⟩ := (lufsChecks_pass _ _ _ _ _ _).1 hcheck
      let ps := s.blockPowers nch.toNat r
      have hstore : inRange (s.argU 4) (8 * ps.length) = true := by simpa [ps, State.blockPowers] using hbp
      exact ⟨_, (((CommandEffect.storePowers ps hstore).comp
          (.setKwFilters r ((s.channels nch.toNat).getD (nch.toNat - 1) []))).setLufs nblk (gate ps)).finish,
        fun u h => by
          simp only [execLufsMeasure, if_neg hmany, if_neg hzero, h.argU, hrate, hcheck, h.loadSamples, nblk, ps,
            State.blockPowers, State.channels]⟩

theorem execTpMeasure_effect (nch : BitVec 4) (s : State) : HasEffect none (execTpMeasure nch) s := by
  by_cases hmany : Config.chMax < nch.toNat
  · exact .of_raise .illcmd fun u _ => by simp only [execTpMeasure, if_pos hmany]
  by_cases hzero : nch.toNat = 0
  · exact ⟨_, (CommandEffect.refl.setRes (i := 0) (by decide) 0).finish,
      fun u _ => by simp only [execTpMeasure, if_neg hmany, if_pos hzero]⟩
  cases hcheck : firstError (tpChecks (s.argU 0) (s.argU 1) (s.argU 2) nch.toNat) with
  | some e => exact .of_raise e fun u h => by simp only [execTpMeasure, if_neg hmany, if_neg hzero, h.argU, hcheck]
  | none =>
    let peak := truePeak ((s.channels nch.toNat).map (List.map widen))
    exact ⟨_, (CommandEffect.refl.setRes (i := 0) (by decide) peak).finish, fun u h => by
      simp only [execTpMeasure, if_neg hmany, if_neg hzero, h.argU, hcheck, h.loadSamples, peak, State.channels,
        List.map_map, Function.comp_def]⟩

/-- R63, R141, R152: a command is one `CommandEffect`, which depends on nothing but its inputs. -/
theorem exec_effect (i : Instr) (s : State) : HasEffect (namedSlot i) (exec i) s := by
  cases i with
  | nop => exact execNop_effect s
  | bqLoad slot => exact execBqLoad_effect slot s
  | bqReset slot => exact execBqReset_effect slot s
  | bqStep slot => exact execBqStep_effect slot s
  | bqRun slot => exact execBqRun_effect slot s
  | kwApply => exact execKwApply_effect s
  | lufsMeasure nch => exact execLufsMeasure_effect nch s
  | tpMeasure nch => exact execTpMeasure_effect nch s

/-- Settles O29: the effect of the command passes over the slot `k`, and `k` is none of its inputs. -/
theorem slotsAreIndependent : Obligations.SlotsAreIndependent := by
  intro i s k f hk
  obtain ⟨F, hF, hexec⟩ := exec_effect i s
  refine ⟨F s, hexec s (.refl _ s), hF.keepsSlot s k hk, ?_⟩
  calc exec i (s.setSlot k f) = .next (F (s.setSlot k f)) := hexec _ (.setSlot s hk f)
    _ = .next ((F s).setSlot k f) := by rw [hF.passesSlot s k f hk]

end Sys2Proof.Machine
end

section
/-!
PROOF. The invariant of the machine: each operation of a step keeps it.
-/

namespace Sys2Proof.Machine

/-! ### Operations that keep the invariant -/

theorem ErrCode.byte_le (e : ErrCode) : e.byte.toNat ≤ 5 := by cases e <;> decide

/-- After any reset the invariant holds, whatever DMEM holds, if that is canonical. -/
theorem State.Inv.of_zeroed {s : State} (hdmem : Dmem.wf s.dmem = true) (hres : s.res = Vector.replicate 8 0)
    (hstatus : s.status = Status.zero) : s.Inv where
  dmem := hdmem
  res6 := by rw [hres]; rfl
  res7 := by rw [hres]; rfl
  busy hbusy := by rw [hstatus] at hbusy; cases hbusy
  errcode := by rw [hstatus]; exact Nat.zero_le 5

/-- A completion ends with BUSY = 0 and a code of R300. -/
theorem State.Inv.of_completes {s t : State} (hcompletes : Completes s t) (hdmem : Dmem.wf t.dmem = true) (hres6 : t.res[6] = 0)
    (hres7 : t.res[7] = 0) : t.Inv where
  dmem := hdmem
  res6 := hres6
  res7 := hres7
  busy hbusy := by cases hcompletes <;> cases hbusy
  errcode := by
    cases hcompletes with
    | error e => exact e.byte_le
    | success => exact Nat.zero_le 5

/-- Settles O22: `State.reset` is a zeroed state with empty DMEM. -/
theorem resetMeetsInvariant : Obligations.ResetMeetsInvariant := .of_zeroed State.wf_reset rfl rfl

namespace State.Inv

variable {s : State} (h : s.Inv)
include h

/-- DMEM, RES and ERRCODE as they were, and no DONE that BUSY = 1 forbids. -/
theorem of_frame {t : State} (hdmem : t.dmem = s.dmem) (hres : t.res = s.res) (herrcode : t.status.errcode = s.status.errcode)
    (hbusy : t.status.busy = true → t.status.done = false) : t.Inv where
  dmem := hdmem ▸ h.dmem
  res6 := hres ▸ h.res6
  res7 := hres ▸ h.res7
  busy := hbusy
  errcode := herrcode ▸ h.errcode

theorem withPending (rest : List Turn) : ({ s with pending := rest } : State).Inv := h.of_frame rfl rfl rfl h.busy

theorem softReset : s.softReset.Inv := .of_zeroed h.dmem rfl rfl

theorem ctrlWrite (v : B64) : (s.ctrlWrite v).Inv := by
  unfold State.ctrlWrite
  split
  · exact h.softReset
  · exact h.of_frame rfl rfl rfl h.busy

theorem issue (v : B64) : (s.issue v).Inv := by
  unfold State.issue
  split
  · exact h.of_frame rfl rfl rfl h.busy
  · exact h.of_frame rfl rfl rfl fun _ => rfl

theorem memWrite {a n : Nat} (v : Nat) (hfit : a + n ≤ Config.dmemBytes) : (s.memWrite a n v).Inv where
  dmem := Dmem.wf_writeLE n h.dmem hfit
  res6 := h.res6
  res7 := h.res7
  busy := h.busy
  errcode := h.errcode

theorem hostEffect {a : Access} {t : State} (heffect : HostEffect s a t) : t.Inv := by
  cases heffect with
  | ignored => exact h
  | answered | readCollides | writeCollides | arg => exact h.of_frame rfl rfl rfl h.busy
  | stored w off v hfit => exact h.memWrite v.toNat hfit
  | ctrl v => exact h.ctrlWrite v
  | status v => exact h.of_frame rfl rfl rfl fun hbusy => by simp [h.busy hbusy]
  | cmd v => exact h.issue v

theorem exec {i : Instr} {t : State} (ht : exec i s = .next t) : t.Inv := by
  obtain ⟨u, hu, hcompletes⟩ := exec_completes i s
  obtain ⟨F, hF, hexec⟩ := exec_effect i s
  obtain rfl : F s = u := Host.Outcome.next.inj ((hexec s (.refl _ s)).symm.trans hu)
  obtain rfl : F s = t := Host.Outcome.next.inj (hu.symm.trans ht)
  exact of_completes hcompletes (hF.dmem s h.dmem) ((hF.res6 s).trans h.res6) ((hF.res7 s).trans h.res7)

theorem engineStep {t : State} (ht : engineStep s = .next t) : t.Inv := by
  rcases engineStep_cases s with ⟨-, hidle⟩ | ⟨-, ⟨i, -, hexec⟩ | ⟨e, -, hillegal⟩⟩
  · exact Host.Outcome.next.inj (hidle.symm.trans ht) ▸ h
  · exact h.exec (hexec.symm.trans ht)
  · exact Host.Outcome.next.inj (hillegal.symm.trans ht) ▸ of_completes (.error .illcmd) h.dmem h.res6 h.res7

end State.Inv

/-- Settles O23, by the turn the step takes: a completion keeps the invariant as a `CommandEffect`, a host access as a
`HostEffect`, and a hard reset zeroes the state. -/
theorem stepKeepsInvariant : Obligations.StepKeepsInvariant := by
  intro s t h ht
  rcases step_cases s with ⟨-, hstep⟩ | ⟨turn, rest, -, ⟨-, hstep⟩ | ⟨a, -, hstep⟩ | ⟨-, hstep⟩⟩ <;> rw [hstep] at ht
  · exact h.engineStep ht
  · exact (h.withPending rest).engineStep ht
  · exact (h.withPending rest).hostEffect (hostAccess_effect ht)
  · exact Host.Outcome.next.inj ht ▸ .of_zeroed State.wf_reset rfl rfl

end Sys2Proof.Machine
end

section
/-!
PROOF. The hidden state, KWPRE, KWRLB and the latches of an idle block, is never observable (10_state.md R66 to R68): two
states that differ in it alone answer the same, and each operation takes them to two such states.
-/

namespace Sys2Proof.Machine

/-- `s` with the hidden state of `x`. -/
def State.copyHidden (s x : State) : State := { s with kwpre := x.kwpre, kwrlb := x.kwrlb, cmdl := x.cmdl, argl := x.argl }

theorem State.hiddenEq_iff (s t : State) :
    s.hiddenEq t ↔ s.copyHidden t = t ∧ (s.status.busy = true → s.cmdl = t.cmdl ∧ s.argl = t.argl) := .rfl

namespace State.hiddenEq

theorem refl (s : State) : s.hiddenEq s := ⟨rfl, fun _ => ⟨rfl, rfl⟩⟩

/-- An operation that neither reads nor writes the hidden state, and starts no command. -/
theorem map {F : State → State} (hcopy : ∀ u x, F (u.copyHidden x) = (F u).copyHidden x)
    (hbusy : ∀ u, (F u).status.busy = true → u.status.busy = true) (hcmdl : ∀ u, (F u).cmdl = u.cmdl)
    (hargl : ∀ u, (F u).argl = u.argl) {s t : State} (h : s.hiddenEq t) : (F s).hiddenEq (F t) := by
  obtain ⟨hvisible, hlatch⟩ := (hiddenEq_iff s t).1 h
  have hF : F t = (F s).copyHidden t := by rw [← hcopy, hvisible]
  refine (hiddenEq_iff _ _).2 ⟨by rw [hF]; rfl, fun hb => ?_⟩
  rw [hcmdl, hcmdl, hargl, hargl]
  exact hlatch (hbusy s hb)

variable {s t : State} (h : s.hiddenEq t)
include h

theorem exists_copyHidden : ∃ x, t = s.copyHidden x := ⟨t, h.1.symm⟩

/-! ### What the host sees is the same -/

theorem status : t.status = s.status := by
  obtain ⟨x, rfl⟩ := h.exists_copyHidden
  rfl

theorem pending : t.pending = s.pending := by
  obtain ⟨x, rfl⟩ := h.exists_copyHidden
  rfl

theorem regRead (off : Nat) : t.regRead off = s.regRead off := by
  obtain ⟨x, rfl⟩ := h.exists_copyHidden
  rfl

theorem memRead (a n : Nat) : t.memRead a n = s.memRead a n := by
  obtain ⟨x, rfl⟩ := h.exists_copyHidden
  exact State.memRead_congr n fun _ _ => rfl

/-! ### The operations of a host access -/

theorem withPending (rest : List Turn) : ({ s with pending := rest } : State).hiddenEq { t with pending := rest } :=
  h.map (F := fun u => { u with pending := rest }) (fun _ _ => rfl) (fun _ => id) (fun _ => rfl) (fun _ => rfl)

theorem answer (v : B64) : (s.answer v).hiddenEq (t.answer v) :=
  h.map (F := fun u => u.answer v) (fun _ _ => rfl) (fun _ => id) (fun _ => rfl) (fun _ => rfl)

theorem collide : s.collide.hiddenEq t.collide :=
  h.map (F := State.collide) (fun _ _ => rfl) (fun _ => id) (fun _ => rfl) (fun _ => rfl)

theorem memWrite (a n v : Nat) : (s.memWrite a n v).hiddenEq (t.memWrite a n v) :=
  h.map (F := fun u => u.memWrite a n v) (fun _ _ => rfl) (fun _ => id) (fun _ => rfl) (fun _ => rfl)

theorem softReset : s.softReset.hiddenEq t.softReset :=
  h.map (F := State.softReset) (fun _ _ => rfl) (fun _ hbusy => nomatch hbusy) (fun _ => rfl) (fun _ => rfl)

theorem hardReset : s.hardReset.hiddenEq t.hardReset := by
  obtain ⟨x, rfl⟩ := h.exists_copyHidden
  exact refl _

theorem ctrlWrite (v : B64) : (s.ctrlWrite v).hiddenEq (t.ctrlWrite v) := by
  unfold State.ctrlWrite
  split
  · exact h.softReset
  · exact h.map (F := fun u => { u with ie := v.getLsbD 0 }) (fun _ _ => rfl) (fun _ => id) (fun _ => rfl) (fun _ => rfl)

theorem statusWrite (v : B64) : ({ s with status := s.status.writeOneToClear v } : State).hiddenEq
    { t with status := t.status.writeOneToClear v } :=
  h.map (F := fun u => { u with status := u.status.writeOneToClear v }) (fun _ _ => rfl) (fun _ => id) (fun _ => rfl)
    (fun _ => rfl)

/-- R67, R140: accept writes the latches from visible state, so afterwards they agree. -/
theorem accept (v : B64) : (s.accept v).hiddenEq (t.accept v) := by
  obtain ⟨x, rfl⟩ := h.exists_copyHidden
  exact ⟨rfl, fun _ => ⟨rfl, rfl⟩⟩

theorem overrun : ({ s with status := s.status.overrun } : State).hiddenEq { t with status := t.status.overrun } :=
  h.map (F := fun u => { u with status := u.status.overrun }) (fun _ _ => rfl) (fun _ => id) (fun _ => rfl) (fun _ => rfl)

theorem issue (v : B64) : (s.issue v).hiddenEq (t.issue v) := by
  have hbusy : t.status.busy = s.status.busy := by rw [h.status]
  unfold State.issue
  rw [hbusy]
  split
  · exact h.overrun
  · exact h.accept v

theorem argWrite (i : Nat) (v : B64) : ({ s with arg := s.arg.setIfInBounds i v } : State).hiddenEq
    { t with arg := t.arg.setIfInBounds i v } :=
  h.map (F := fun u => { u with arg := u.arg.setIfInBounds i v }) (fun _ _ => rfl) (fun _ => id) (fun _ => rfl) (fun _ => rfl)

theorem regWrite (off : Nat) (v : B64) : (s.regWrite off v).hiddenEq (t.regWrite off v) := by
  unfold State.regWrite
  split_ifs
  · exact h.ctrlWrite v
  · exact h.statusWrite v
  · exact h.issue v
  · exact h
  · exact h.argWrite _ v
  · exact h

/-! ### Host accesses -/

theorem hostReadReg (w : Width) (off : Nat) : (s.hostReadReg w off).hiddenEq (t.hostReadReg w off) := by
  unfold State.hostReadReg
  rw [h.regRead]
  split <;> exact h.answer _

theorem hostWriteReg (w : Width) (off : Nat) (v : B64) : (s.hostWriteReg w off v).hiddenEq (t.hostWriteReg w off v) := by
  unfold State.hostWriteReg
  split
  · exact h.regWrite off v
  · exact h

theorem hostReadDmem (w : Width) (off : Nat) : (s.hostReadDmem w off).hiddenEq (t.hostReadDmem w off) := by
  unfold State.hostReadDmem
  rw [h.status, h.memRead]
  split_ifs
  · exact (h.answer 0).collide
  · exact h.answer _
  · exact h.answer 0

theorem hostWriteDmem (w : Width) (off : Nat) (v : B64) : (s.hostWriteDmem w off v).hiddenEq (t.hostWriteDmem w off v) := by
  unfold State.hostWriteDmem
  rw [h.status]
  split_ifs
  · exact h.collide
  · exact h.memWrite off _ _
  · exact h

end State.hiddenEq

/-- Two outcomes the host cannot tell apart. -/
def SameOutcome (o p : Host.Outcome State Fault Refusal) : Prop :=
  (∃ s t, o = .next s ∧ p = .next t ∧ s.hiddenEq t) ∨ ∃ f, o = .fault f ∧ p = .fault f

theorem State.hiddenEq.next {s t : State} (h : s.hiddenEq t) : SameOutcome (.next s) (.next t) := .inl ⟨s, t, rfl, rfl, h⟩

theorem hostAccess_hiddenEq {s t : State} (h : s.hiddenEq t) (a : Access) : SameOutcome (hostAccess s a) (hostAccess t a) := by
  by_cases ha : a.inside
  · rcases a with ⟨_ | _, w, off⟩ | ⟨_ | _, w, off, v⟩
    · exact .inl ⟨_, _, if_pos ha, if_pos ha, h.hostReadReg w off⟩
    · exact .inl ⟨_, _, if_pos ha, if_pos ha, h.hostReadDmem w off⟩
    · exact .inl ⟨_, _, if_pos ha, if_pos ha, h.hostWriteReg w off v⟩
    · exact .inl ⟨_, _, if_pos ha, if_pos ha, h.hostWriteDmem w off v⟩
  · exact .inr ⟨_, hostAccess_outside s ha, hostAccess_outside t ha⟩

/-! ### The engine -/

theorem State.withFilters_hiddenEq (s : State) (pre rlb : Biquad) : s.hiddenEq (s.withFilters pre rlb) :=
  ⟨rfl, fun _ => ⟨rfl, rfl⟩⟩

/-- While a command is in flight only the internal filters may differ. -/
theorem State.hiddenEq.eq_withFilters {s t : State} (h : s.hiddenEq t) (hbusy : s.status.busy = true) :
    t = s.withFilters t.kwpre t.kwrlb := by
  obtain ⟨hvisible, hlatch⟩ := (hiddenEq_iff s t).1 h
  obtain ⟨hcmdl, hargl⟩ := hlatch hbusy
  rw [← hvisible, State.copyHidden, ← hcmdl, ← hargl]
  rfl

/-- R66: a command reads neither KWPRE nor KWRLB, and leaves all else as if they had been the same. -/
theorem exec_withFilters (i : Instr) (s : State) (pre rlb : Biquad) :
    ∃ t pre' rlb', exec i s = .next t ∧ exec i (s.withFilters pre rlb) = .next (t.withFilters pre' rlb') := by
  obtain ⟨F, hF, hexec⟩ := exec_effect i s
  obtain ⟨pre', rlb', hfilters⟩ := hF.filters s pre rlb
  exact ⟨F s, pre', rlb', hexec s (.refl _ s), hfilters ▸ hexec _ ⟨rfl, rfl, rfl, fun _ _ => rfl⟩⟩

theorem engineStep_hiddenEq {s t : State} (h : s.hiddenEq t) : SameOutcome (engineStep s) (engineStep t) := by
  unfold engineStep
  rw [h.status]
  split
  case isFalse => exact h.next
  case isTrue hbusy =>
    rw [h.eq_withFilters hbusy, show (s.withFilters t.kwpre t.kwrlb).cmdl = s.cmdl from rfl]
    cases decode s.cmdl with
    | ok i =>
      obtain ⟨u, pre, rlb, hs, ht⟩ := exec_withFilters i s t.kwpre t.kwrlb
      exact .inl ⟨_, _, hs, ht, u.withFilters_hiddenEq pre rlb⟩
    | error e => exact ((s.raise .illcmd).withFilters_hiddenEq t.kwpre t.kwrlb).next

/-- Settles O28, by the turn the two steps take, which is the same one. -/
theorem hiddenStateNeverObserved : Obligations.HiddenStateNeverObserved := by
  intro s t h
  change SameOutcome (step s) (step t)
  unfold step
  rw [h.pending]
  cases s.pending with
  | nil => exact engineStep_hiddenEq h
  | cons turn rest =>
    cases turn with
    | engine => exact engineStep_hiddenEq (h.withPending rest)
    | host a => exact hostAccess_hiddenEq (h.withPending rest) a
    | hardReset => exact (h.withPending rest).hardReset.next

end Sys2Proof.Machine
end

section
/-!
PROOF. Host accesses to DMEM (20_memory.md R81, R84, R90): what `MemRead` and `MemWrite` do byte by byte, what a host
access to the DMEM window does in each of its cases, and which steps stop the machine.
-/

namespace Sys2Proof.Machine

/-! ### Bytes and little-endian values -/

/-- Byte `j` of a memory write. -/
theorem State.byteAt_memWrite_inside (s : State) (a v : Nat) {n j : Nat} (hj : j < n) :
    (s.memWrite a n v).byteAt (a + j) = BitVec.ofNat 8 (v / 256 ^ j) := by
  rw [State.byteAt, State.memWrite_dmem, Dmem.read_writeLE_inside n _ _ _ _ hj, Option.getD_some]

/-- R81: bits 8j+7:8j of a number are its digit `j` in base 256. -/
theorem two_pow_eight_mul (j : Nat) : 2 ^ (8 * j) = 256 ^ j := by rw [pow_mul]; norm_num

/-- R81: the recursion of `MemRead` as a sum over its bytes. -/
theorem State.memRead_eq_sum (s : State) (n : Nat) :
    ∀ a, s.memRead a n = ∑ j ∈ Finset.range n, (s.byteAt (a + j)).toNat * 256 ^ j := by
  induction n with
  | zero => intro a; rfl
  | succ n ih =>
    intro a
    have hshift : ∀ j, (s.byteAt (a + (j + 1))).toNat * 256 ^ (j + 1) = 256 * ((s.byteAt (a + 1 + j)).toNat * 256 ^ j) := by
      intro j
      rw [Nat.add_right_comm a 1 j, Nat.add_assoc a j 1]
      ring
    rw [State.memRead, ih, Finset.sum_range_succ', Finset.sum_congr rfl fun j _ => hshift j, ← Finset.mul_sum]
    simp [Nat.add_comm]

/-- A memory whose bytes are the digits of `v` reads as `v`. -/
theorem State.memRead_of_bytes (s : State) (n : Nat) :
    ∀ a v, (∀ j, j < n → s.byteAt (a + j) = BitVec.ofNat 8 (v / 256 ^ j)) → s.memRead a n = v % 256 ^ n := by
  induction n with
  | zero => intro a v _; rw [State.memRead, pow_zero, Nat.mod_one]
  | succ n ih =>
    intro a v hbytes
    have hhead : (s.byteAt a).toNat = v % 256 := by simpa using congrArg BitVec.toNat (hbytes 0 n.succ_pos)
    have htail : s.memRead (a + 1) n = v / 256 % 256 ^ n := ih (a + 1) (v / 256) fun j hj => by
      have hbyte := hbytes (j + 1) (Nat.succ_lt_succ hj)
      rwa [pow_succ', ← Nat.div_div_eq_div_mul, ← Nat.add_assoc, Nat.add_right_comm] at hbyte
    rw [State.memRead, hhead, htail, pow_succ', Nat.mod_mul]

/-- Settles O19: a write leaves the digits of `v` in its bytes, and a read sums them. -/
theorem memoryIsLittleEndian : Obligations.MemoryIsLittleEndian := by
  intro s a n v
  refine ⟨s.memRead_eq_sum n a, fun j hj => ?_, s.byteAt_memWrite_outside a n v, ?_⟩
  · rw [two_pow_eight_mul, s.byteAt_memWrite_inside a v hj]
  · exact State.memRead_of_bytes _ n a v fun j hj => s.byteAt_memWrite_inside a v hj

/-! ### The DMEM window -/

section
variable {s : State} {off : Nat} (w : Width)

theorem hostAccess_read_dmem_aligned (hidle : s.status.busy = false) (hoff : off < Config.dmemBytes)
    (halign : off % w.bytes = 0) :
    hostAccess s (.read .dmem w off) = .next (s.answer (BitVec.ofNat 64 (s.memRead off w.bytes))) := by
  simp [hostAccess, hoff, State.hostReadDmem, hidle, Width.aligned, halign]

theorem hostAccess_write_dmem_aligned (v : B64) (hidle : s.status.busy = false) (hoff : off < Config.dmemBytes)
    (halign : off % w.bytes = 0) :
    hostAccess s (.write .dmem w off v) = .next (s.memWrite off w.bytes v.toNat) := by
  simp [hostAccess, hoff, State.hostWriteDmem, hidle, Width.aligned, halign]

theorem hostAccess_read_dmem_misaligned (hidle : s.status.busy = false) (hoff : off < Config.dmemBytes)
    (halign : off % w.bytes ≠ 0) : hostAccess s (.read .dmem w off) = .next (s.answer 0) := by
  simp [hostAccess, hoff, State.hostReadDmem, hidle, Width.aligned, halign]

theorem hostAccess_write_dmem_misaligned (v : B64) (hidle : s.status.busy = false) (hoff : off < Config.dmemBytes)
    (halign : off % w.bytes ≠ 0) : hostAccess s (.write .dmem w off v) = .next s := by
  simp [hostAccess, hoff, State.hostWriteDmem, hidle, Width.aligned, halign]

theorem hostAccess_read_dmem_busy (hbusy : s.status.busy = true) (hoff : off < Config.dmemBytes) :
    hostAccess s (.read .dmem w off) = .next (s.answer 0).collide := by
  rw [hostAccess, if_pos hoff, State.hostReadDmem, if_pos hbusy]

theorem hostAccess_write_dmem_busy (v : B64) (hbusy : s.status.busy = true) (hoff : off < Config.dmemBytes) :
    hostAccess s (.write .dmem w off v) = .next s.collide := by
  rw [hostAccess, if_pos hoff, State.hostWriteDmem, if_pos hbusy]

end

/-- Settles O20, by the three places the offset can be: aligned in DMEM, misaligned in DMEM, and beyond DMEM. -/
theorem hostDmemAccess : Obligations.HostDmemAccess := by
  intro s w off v hidle
  refine ⟨fun hoff halign => ⟨?_, ?_⟩, fun hoff halign => ⟨?_, ?_⟩, fun hoff => ⟨?_, ?_⟩⟩
  · rw [hostAccess_read_dmem_aligned w hidle hoff halign, s.memRead_eq_sum]
    rfl
  · refine ⟨_, hostAccess_write_dmem_aligned w v hidle hoff halign, rfl, fun j hj => ?_, fun a ha => ?_⟩
    · rw [two_pow_eight_mul, s.byteAt_memWrite_inside off v.toNat hj]
    · exact s.byteAt_memWrite_outside off w.bytes v.toNat a ha
  · exact hostAccess_read_dmem_misaligned w hidle hoff halign
  · exact hostAccess_write_dmem_misaligned w v hidle hoff halign
  · exact hostAccess_outside s (a := .read .dmem w off) (Nat.not_lt.2 hoff)
  · exact hostAccess_outside s (a := .write .dmem w off v) (Nat.not_lt.2 hoff)

/-! ### Collisions -/

/-- A register-window read answers the register when it is aligned and 8 bytes wide, else 0 (R41). -/
theorem hostAccess_read_regs (s : State) (w : Width) {off : Nat} (hoff : off < Config.regBytes) :
    hostAccess s (.read .regs w off) = .next (s.answer (if w = .w8 ∧ off % 8 = 0 then s.regRead off else 0)) := by
  split
  case isTrue h =>
    obtain ⟨rfl, halign⟩ := h
    exact hostAccess_read_aligned s halign hoff
  case isFalse h => exact hostAccess_read_other s (by tauto) hoff

theorem State.issue_dmem (s : State) (v : B64) : (s.issue v).dmem = s.dmem := by
  unfold State.issue
  split <;> rfl

/-- A CMD write sets OVR or BUSY, never COLL. -/
theorem State.issue_coll (s : State) (v : B64) : (s.issue v).status.coll = s.status.coll := by
  unfold State.issue
  split <;> rfl

theorem State.ctrlWrite_dmem (s : State) (v : B64) : (s.ctrlWrite v).dmem = s.dmem := by
  unfold State.ctrlWrite
  split <;> rfl

/-- A CTRL write leaves COLL alone or, as a soft reset, clears it. -/
theorem State.coll_of_ctrlWrite {s : State} {v : B64} (h : (s.ctrlWrite v).status.coll = true) : s.status.coll = true := by
  unfold State.ctrlWrite at h
  split at h
  · cases h
  · exact h

/-- A register-window write reaches no DMEM byte. -/
theorem HostEffect.dmem_of_regs {s t : State} {w : Width} {off : Nat} {v : B64}
    (h : HostEffect s (.write .regs w off v) t) : t.dmem = s.dmem := by
  cases h with
  | ctrl => exact s.ctrlWrite_dmem v
  | cmd => exact s.issue_dmem v
  | ignored | status | arg => rfl

/-- R90: a register-window write never sets COLL. -/
theorem HostEffect.coll_of_regs {s t : State} {w : Width} {off : Nat} {v : B64}
    (h : HostEffect s (.write .regs w off v) t) (hcoll : t.status.coll = true) : s.status.coll = true := by
  cases h with
  | ctrl => exact State.coll_of_ctrlWrite hcoll
  | status =>
    rw [Status.writeOneToClear_coll, Bool.and_eq_true] at hcoll
    exact hcoll.1
  | cmd => exact (s.issue_coll v).symm.trans hcoll
  | ignored | arg => exact hcoll

/-- Settles O21: BUSY decides a DMEM access before its width and alignment do, and plays no part in a register access. -/
theorem collisionWhileBusy : Obligations.CollisionWhileBusy := by
  intro s w off v hbusy
  refine ⟨fun hoff => ⟨?_, ?_⟩, fun hoff => ⟨?_, ?_⟩⟩
  · exact hostAccess_read_dmem_busy w hbusy hoff
  · exact hostAccess_write_dmem_busy w v hbusy hoff
  · exact ⟨_, hostAccess_read_regs s w hoff, rfl⟩
  · obtain ⟨t, ht, heffect⟩ := hostAccess_inside s (a := .write .regs w off v) hoff
    exact ⟨t, ht, heffect.dmem_of_regs, heffect.coll_of_regs⟩

/-! ### What can stop the machine -/

/-- R326, R142: an engine turn gives a next state, idle or not. -/
theorem engineStep_next (s : State) : ∃ t, engineStep s = .next t := by
  rcases engineStep_cases s with ⟨-, hidle⟩ | ⟨hbusy, -⟩
  · exact ⟨s, hidle⟩
  · obtain ⟨t, ht, -⟩ := engineStep_completes hbusy
    exact ⟨t, ht⟩

/-- Settles O24, by the turn the step takes: only a host access can stop the machine, and inside its window it does not. -/
theorem onlyOutsideAccessStops : Obligations.OnlyOutsideAccessStops := by
  intro s
  rcases step_cases s with ⟨-, hstep⟩ | ⟨turn, rest, hpending, ⟨-, hstep⟩ | ⟨a, rfl, hstep⟩ | ⟨-, hstep⟩⟩ <;> rw [hstep]
  · exact .inl (engineStep_next s)
  · exact .inl (engineStep_next _)
  · by_cases ha : a.inside
    · obtain ⟨t, ht, -⟩ := hostAccess_inside { s with pending := rest } ha
      exact .inl ⟨t, ht⟩
    · exact .inr ⟨a, rest, hpending, ha, hostAccess_outside _ ha⟩
  · exact .inl ⟨_, rfl⟩

end Sys2Proof.Machine
end

section
/-!
PROOF. The command word (30_encoding.md R110 to R118): which values decode and to what, said once by the four fields of the
value, and from that the statements about encoding, about illegal values and about words written out by hand.
-/

namespace Sys2Proof

open Laws.EncodedFields (opcode slotField nchField)
open Machine

/-! ### The fields of a CMD value -/

/-- R110: the four fields cover all 64 bits. -/
theorem eq_of_fields_eq {v w : B64} (hrsv : rsvOf v = rsvOf w) (hopc : opcOf v = opcOf w) (hslot : slotOf v = slotOf w)
    (hnch : nchOf v = nchOf w) : v = w := by
  simp only [rsvOf, opcOf, slotOf, nchOf, BitVec.toNat_eq, BitVec.extractLsb'_toNat, Nat.shiftRight_eq_div_pow] at *
  omega

/-- The fields of `v` are those R112 gives the legal command `i`. -/
structure HasFieldsOf (v : B64) (i : Instr) : Prop where
  rsv : rsvOf v = 0
  opc : opcOf v = opcode i
  slot : slotOf v = slotField i
  nch : nchOf v = nchField i
  legal : i.wellFormed = true

/-- R112: the laws of `EncodedFields`, for every command at once. -/
theorem encodedFields (i : Instr) : Laws.EncodedFields.Statement i := by
  cases i with
  | nop => exact Laws.EncodedFields.nop
  | bqLoad slot => exact Laws.EncodedFields.bqLoad slot
  | bqReset slot => exact Laws.EncodedFields.bqReset slot
  | bqStep slot => exact Laws.EncodedFields.bqStep slot
  | bqRun slot => exact Laws.EncodedFields.bqRun slot
  | kwApply => exact Laws.EncodedFields.kwApply
  | lufsMeasure nch => exact Laws.EncodedFields.lufsMeasure nch
  | tpMeasure nch => exact Laws.EncodedFields.tpMeasure nch

theorem hasFieldsOf_cmdValue {i : Instr} (hlegal : i.wellFormed = true) : HasFieldsOf (cmdValue i) i := by
  obtain ⟨hopc, hslot, hnch, hrsv⟩ := encodedFields i
  exact ⟨hrsv, hopc, hslot, hnch, hlegal⟩

/-- No two values have the fields of one command. -/
theorem HasFieldsOf.value_unique {v w : B64} {i : Instr} (hv : HasFieldsOf v i) (hw : HasFieldsOf w i) : v = w :=
  eq_of_fields_eq (hv.rsv.trans hw.rsv.symm) (hv.opc.trans hw.opc.symm) (hv.slot.trans hw.slot.symm) (hv.nch.trans hw.nch.symm)

/-! ### What decodes -/

theorem decodePlain_eq_ok_iff {i j : Instr} {v : B64} :
    decodePlain i v = .ok j ↔ slotOf v = 0 ∧ nchOf v = 0 ∧ i = j := by
  unfold decodePlain
  split_ifs <;> simp_all

theorem decodeSlotted_eq_ok_iff {c : BitVec 4 → Instr} {j : Instr} {v : B64} :
    decodeSlotted c v = .ok j ↔ nchOf v = 0 ∧ (slotOf v).toNat < Config.nbq ∧ c (slotOf v) = j := by
  unfold decodeSlotted
  split_ifs <;> simp_all

theorem decodeChannelled_eq_ok_iff {c : BitVec 4 → Instr} {j : Instr} {v : B64} :
    decodeChannelled c v = .ok j ↔ slotOf v = 0 ∧ (nchOf v).toNat ≤ Config.chMax ∧ c (nchOf v) = j := by
  unfold decodeChannelled
  split_ifs <;> simp_all

namespace HasFieldsOf

variable {v : B64} {i : Instr}

theorem of_decodePlain {c : Instr} (h : decodePlain c v = .ok i) (hrsv : rsvOf v = 0) (hopc : opcOf v = opcode c)
    (hslot : slotField c = 0) (hnch : nchField c = 0) (hlegal : c.wellFormed = true) : HasFieldsOf v i := by
  obtain ⟨hslot0, hnch0, rfl⟩ := decodePlain_eq_ok_iff.1 h
  exact ⟨hrsv, hopc, hslot0.trans hslot.symm, hnch0.trans hnch.symm, hlegal⟩

theorem of_decodeSlotted {c : BitVec 4 → Instr} (h : decodeSlotted c v = .ok i) (hrsv : rsvOf v = 0)
    (hopc : opcOf v = opcode (c (slotOf v))) (hslot : slotField (c (slotOf v)) = slotOf v) (hnch : nchField (c (slotOf v)) = 0)
    (hlegal : (c (slotOf v)).wellFormed = decide ((slotOf v).toNat < Config.nbq)) :
    HasFieldsOf v i := by
  obtain ⟨hnch0, hlt, rfl⟩ := decodeSlotted_eq_ok_iff.1 h
  exact ⟨hrsv, hopc, hslot.symm, hnch0.trans hnch.symm, hlegal.trans (decide_eq_true hlt)⟩

theorem of_decodeChannelled {c : BitVec 4 → Instr} (h : decodeChannelled c v = .ok i) (hrsv : rsvOf v = 0)
    (hopc : opcOf v = opcode (c (nchOf v))) (hslot : slotField (c (nchOf v)) = 0) (hnch : nchField (c (nchOf v)) = nchOf v)
    (hlegal : (c (nchOf v)).wellFormed = decide ((nchOf v).toNat ≤ Config.chMax)) :
    HasFieldsOf v i := by
  obtain ⟨hslot0, hle, rfl⟩ := decodeChannelled_eq_ok_iff.1 h
  exact ⟨hrsv, hopc, hslot0.trans hslot.symm, hnch.symm, hlegal.trans (decide_eq_true hle)⟩

theorem of_decode (h : decode v = .ok i) : HasFieldsOf v i := by
  unfold decode at h
  split_ifs at h with hrsv hopc hopc hopc hopc hopc hopc hopc hopc <;> rw [not_not] at hrsv
  · exact of_decodePlain h hrsv hopc rfl rfl rfl
  · exact of_decodeSlotted h hrsv hopc rfl rfl rfl
  · exact of_decodeSlotted h hrsv hopc rfl rfl rfl
  · exact of_decodeSlotted h hrsv hopc rfl rfl rfl
  · exact of_decodeSlotted h hrsv hopc rfl rfl rfl
  · exact of_decodePlain h hrsv hopc rfl rfl rfl
  · exact of_decodeChannelled h hrsv hopc rfl rfl rfl
  · exact of_decodeChannelled h hrsv hopc rfl rfl rfl

theorem decode_eq (h : HasFieldsOf v i) : decode v = .ok i := by
  obtain ⟨hrsv, hopc, hslot, hnch, hlegal⟩ := h
  cases i with
  | nop | kwApply => simp_all [decode, opcode, slotField, nchField, decodePlain_eq_ok_iff]
  | bqLoad slot | bqReset slot | bqStep slot | bqRun slot =>
    simp_all [decode, opcode, slotField, nchField, Instr.wellFormed, decodeSlotted_eq_ok_iff]
  | lufsMeasure nch | tpMeasure nch =>
    simp_all [decode, opcode, slotField, nchField, Instr.wellFormed, decodeChannelled_eq_ok_iff]

end HasFieldsOf

/-- R112, R115: a value decodes to a command exactly when it has the fields of that command and the command is legal. -/
theorem decode_eq_ok_iff {v : B64} {i : Instr} : decode v = .ok i ↔ HasFieldsOf v i := ⟨.of_decode, HasFieldsOf.decode_eq⟩

/-- Settles O1: the CMD value of a legal command has its fields. -/
theorem decodeOfEncode : Obligations.DecodeOfEncode := fun _ hlegal => decode_eq_ok_iff.2 (hasFieldsOf_cmdValue hlegal)

/-- Settles O2: the value and the CMD value of what it decodes to have the same fields. -/
theorem encodeOfDecode : Obligations.EncodeOfDecode := by
  intro v i h
  have hfields : HasFieldsOf v i := decode_eq_ok_iff.1 h
  exact ⟨(hasFieldsOf_cmdValue hfields.legal).value_unique hfields, hfields.legal⟩

/-! ### Illegal values -/

/-- The legal values, by which fields the opcode reads: neither, SLOT, or NCH. -/
theorem exists_hasFieldsOf_iff {v : B64} : (∃ i, HasFieldsOf v i) ↔ rsvOf v = 0 ∧
    (opcOf v ∈ ([0x00, 0x20] : List (BitVec 8)) ∧ slotOf v = 0 ∧ nchOf v = 0 ∨
     opcOf v ∈ ([0x10, 0x11, 0x12, 0x13] : List (BitVec 8)) ∧ nchOf v = 0 ∧ (slotOf v).toNat < Config.nbq ∨
     opcOf v ∈ ([0x30, 0x40] : List (BitVec 8)) ∧ slotOf v = 0 ∧ (nchOf v).toNat ≤ Config.chMax) := by
  constructor
  · rintro ⟨i, hrsv, hopc, hslot, hnch, hlegal⟩
    refine ⟨hrsv, ?_⟩
    rw [hopc, hslot, hnch]
    cases i with
    | nop | kwApply => exact .inl ⟨by simp [opcode], rfl, rfl⟩
    | bqLoad slot | bqReset slot | bqStep slot | bqRun slot =>
      exact .inr (.inl ⟨by simp [opcode], rfl, of_decide_eq_true hlegal⟩)
    | lufsMeasure nch | tpMeasure nch => exact .inr (.inr ⟨by simp [opcode], rfl, of_decide_eq_true hlegal⟩)
  · rintro ⟨hrsv, ⟨hopc, hslot, hnch⟩ | ⟨hopc, hnch, hlt⟩ | ⟨hopc, hslot, hle⟩⟩ <;>
      simp only [List.mem_cons, List.not_mem_nil, or_false] at hopc
    · rcases hopc with hopc | hopc
      · exact ⟨.nop, hrsv, hopc, hslot, hnch, rfl⟩
      · exact ⟨.kwApply, hrsv, hopc, hslot, hnch, rfl⟩
    · have hlegal := decide_eq_true hlt
      rcases hopc with hopc | hopc | hopc | hopc
      · exact ⟨.bqLoad _, hrsv, hopc, rfl, hnch, hlegal⟩
      · exact ⟨.bqReset _, hrsv, hopc, rfl, hnch, hlegal⟩
      · exact ⟨.bqStep _, hrsv, hopc, rfl, hnch, hlegal⟩
      · exact ⟨.bqRun _, hrsv, hopc, rfl, hnch, hlegal⟩
    · have hlegal := decide_eq_true hle
      rcases hopc with hopc | hopc
      · exact ⟨.lufsMeasure _, hrsv, hopc, hslot, rfl, hlegal⟩
      · exact ⟨.tpMeasure _, hrsv, hopc, hslot, rfl, hlegal⟩

theorem decode_error_iff {v : B64} : (∃ e, decode v = .error e) ↔ ¬ ∃ i, HasFieldsOf v i := by
  simp only [← decode_eq_ok_iff]
  cases decode v <;> simp

theorem engineStep_of_illegal {s : State} {e : DecodeError} (hbusy : s.status.busy = true) (h : decode s.cmdl = .error e) :
    engineStep s = .next (s.raise .illcmd) := by
  simp only [engineStep, hbusy, if_true, h]

/-- Settles O3: the six conditions deny that the value is legal, opcode by opcode; and the engine's turn on such a value is
`State.raise`. -/
theorem illegalValuesComplete : Obligations.IllegalValuesComplete := by
  refine ⟨fun v => ?conditions, fun s e rest hbusy h hpending => ?completion⟩
  case conditions =>
    rw [decode_error_iff, exists_hasFieldsOf_iff]
    unfold rsvOf opcOf slotOf nchOf
    generalize v.extractLsb' 16 48 = rsv, v.extractLsb' 0 8 = opc, v.extractLsb' 8 4 = slot, v.extractLsb' 12 4 = nch
    by_cases hopc : opc ∈ ([0x00, 0x10, 0x11, 0x12, 0x13, 0x20, 0x30, 0x40] : List (BitVec 8)) <;>
      simp only [List.mem_cons, List.not_mem_nil, or_false, not_or] at hopc
    · rcases hopc with rfl | rfl | rfl | rfl | rfl | rfl | rfl | rfl <;> simp [imp_iff_not_or]
    · simp only [List.mem_cons, List.not_mem_nil, hopc]
      simp
  case completion => exact (step_of_pending_engine hpending).trans (engineStep_of_illegal hbusy h)

/-! ### Words written out by hand -/

/-- R112, R118: the table's 32-bit word of a legal command decodes to it. -/
theorem decodeTableWord_encode {i : Instr} (hlegal : i.wellFormed = true) : decodeTableWord 32 (encode i).toNat = some i := by
  have hbits : cmdBits 32 (encode i).toNat = cmdValue i := by
    simp only [cmdBits, cmdValue, Nat.mod_eq_of_lt (encode i).isLt, BitVec.ofNat_toNat]
  rw [decodeTableWord, hbits, decodeOfEncode i hlegal]

/-- Settles O4: the eight legal words are the encodings of their commands; BQ_RUN on slot 4 and LUFS_MEASURE of 9 channels
do not decode. -/
theorem writtenOutWordsDecode : Obligations.WrittenOutWordsDecode :=
  ⟨decodeTableWord_encode (i := .nop) rfl, decodeTableWord_encode (i := .bqLoad 3) rfl,
    decodeTableWord_encode (i := .bqReset 0) rfl, decodeTableWord_encode (i := .bqStep 1) rfl,
    decodeTableWord_encode (i := .bqRun 2) rfl, decodeTableWord_encode (i := .kwApply) rfl,
    decodeTableWord_encode (i := .lufsMeasure 2) rfl, decodeTableWord_encode (i := .tpMeasure 8) rfl,
    by decide, by decide⟩

end Sys2Proof
end

section
/-!
PROOF. Running a script (00_scope.md R9): a step takes the first pending turn and leaves the others, so a script of safe
turns runs to any length.
-/

namespace Sys2Proof.Machine

theorem Completes.pending_eq {s t : State} (h : Completes s t) : t.pending = s.pending := by
  cases h <;> rfl

theorem State.issue_pending (s : State) (v : B64) : (s.issue v).pending = s.pending := by
  unfold State.issue
  split <;> rfl

theorem State.ctrlWrite_pending (s : State) (v : B64) : (s.ctrlWrite v).pending = s.pending := by
  unfold State.ctrlWrite
  split <;> rfl

theorem HostEffect.pending_eq {s t : State} {a : Access} (h : HostEffect s a t) : t.pending = s.pending := by
  cases h with
  | ctrl v => exact s.ctrlWrite_pending v
  | cmd v => exact s.issue_pending v
  | ignored | answered | readCollides | writeCollides | stored | status | arg => rfl

theorem engineStep_pending {s t : State} (h : engineStep s = .next t) : t.pending = s.pending := by
  rcases engineStep_cases s with ⟨-, hidle⟩ | ⟨hbusy, -⟩
  · exact congrArg State.pending (Host.Outcome.next.inj (h.symm.trans hidle))
  · obtain ⟨u, hu, hcompletes⟩ := engineStep_completes hbusy
    exact Host.Outcome.next.inj (hu.symm.trans h) ▸ hcompletes.pending_eq

/-- A step takes the first pending turn, if there is one, and adds none. -/
theorem step_pending {s t : State} (h : step s = .next t) : t.pending = s.pending.tail := by
  rcases step_cases s with ⟨hpending, hstep⟩ | ⟨turn, rest, hpending, ⟨-, hstep⟩ | ⟨a, -, hstep⟩ | ⟨-, hstep⟩⟩ <;>
    rw [hstep] at h <;> rw [hpending]
  · exact (engineStep_pending h).trans hpending
  · exact engineStep_pending h
  · exact (hostAccess_effect h).pending_eq
  · exact congrArg State.pending (Host.Outcome.next.inj h).symm

theorem step_next_of_safe {s : State} (hsafe : ∀ turn ∈ s.pending, turn.safe) : ∃ t, step s = .next t := by
  rcases onlyOutsideAccessStops s with hnext | ⟨a, rest, hpending, houtside, -⟩
  · exact hnext
  · exact absurd (hsafe (.host a) (by simp [hpending])) houtside

theorem run_core_succ {s t : State} (k : Nat) (h : step s = .next t) : Host.Core.run core (k + 1) s = Host.Core.run core k t := by
  have hcore : core.step s = .next t := h
  simp only [Host.Core.run, hcore]

/-- Settles O25, by induction on the number of steps: a safe script does not stop the step, and what it leaves is safe. -/
theorem safeScriptNeverStops : Obligations.SafeScriptNeverStops := by
  intro k
  induction k with
  | zero => exact fun s _ => ⟨s, rfl⟩
  | succ k ih =>
    intro s hsafe
    obtain ⟨t, ht⟩ := step_next_of_safe hsafe
    rw [run_core_succ k ht]
    refine ih t fun turn hturn => hsafe turn (List.mem_of_mem_tail ?_)
    rwa [← step_pending ht]

end Sys2Proof.Machine
end

section
/-!
PROOF. The engine and the host around one command (40_common.md R140 to R145, R153): accept and overrun, the completion of
the command in flight, and what the host cannot change before it.
-/

namespace Sys2Proof.Machine

/-! ### Completion -/

/-- R142: success in the words of `State.succeeded`. -/
theorem State.finish_eq_succeeded (s : State) : s.finish = { s with status := s.succeeded } := rfl

/-- R142, R306: an error completion in the words of `State.failed`. -/
theorem State.raise_eq_failed (s : State) (e : ErrCode) : s.raise e = { s with status := s.failed e.byte } := rfl

/-- R300: 0x00 is no error code. -/
theorem ErrCode.byte_ne_zero (e : ErrCode) : e.byte ≠ 0x00 := by cases e <;> decide

/-- R152: what a completion leaves unchanged. -/
theorem Completes.frame {s t : State} (h : Completes s t) :
    t = { s with status := t.status, slots := t.slots, res := t.res, dmem := t.dmem, kwpre := t.kwpre, kwrlb := t.kwrlb } := by
  cases h <;> rfl

/-- R142: the fields of STATUS that every completion treats alike. -/
theorem Completes.status {s t : State} (h : Completes s t) :
    t.status.busy = false ∧ t.status.done = true ∧ t.status.lastop = s.cmdl.extractLsb' 0 8 ∧
      t.status.ovr = s.status.ovr ∧ t.status.coll = s.status.coll := by
  cases h <;> exact ⟨rfl, rfl, rfl, rfl, rfl⟩

/-- R307: a completion with ERRCODE 0x00 is a success, which keeps ERR. -/
theorem Completes.err_of_errcode_eq_zero {s t : State} (h : Completes s t) (hcode : t.status.errcode = 0x00) :
    t.status.err = s.status.err := by
  cases h with
  | error e => exact absurd hcode e.byte_ne_zero
  | success => rfl

/-- R143, R306: a completion with another ERRCODE is `State.raise`, which changes STATUS alone. -/
theorem Completes.eq_failed_of_errcode_ne_zero {s t : State} (h : Completes s t) (hcode : t.status.errcode ≠ 0x00) :
    t = { s with status := s.failed t.status.errcode } := by
  cases h with
  | error e => exact s.raise_eq_failed e
  | success => exact absurd rfl hcode

theorem engineStep_of_idle {s : State} (hidle : s.status.busy = false) : engineStep s = .next s := by
  rw [engineStep, hidle, if_neg Bool.false_ne_true]

theorem engineStep_of_legal {s : State} {i : Instr} (hbusy : s.status.busy = true) (h : decode s.cmdl = .ok i) :
    engineStep s = exec i s := by
  simp only [engineStep, hbusy, if_true, h]

theorem step_of_pending_nil {s : State} (h : s.pending = []) : step s = engineStep s := by
  simp only [step, h]

/-- Settles O5: taking the engine's turn away changes neither BUSY nor CMDL. -/
theorem stepRunsDecodedCommand : Obligations.StepRunsDecodedCommand := by
  intro s i hbusy hdecode
  refine ⟨fun rest hpending => ?_, fun hpending => ?_⟩
  · exact (step_of_pending_engine hpending).trans (engineStep_of_legal hbusy hdecode)
  · exact (step_of_pending_nil hpending).trans (engineStep_of_legal hbusy hdecode)

/-- Settles O6: with BUSY = 1 the engine's turn is a `Completes`, from the state without that turn. -/
theorem engineStepCompletes : Obligations.EngineStepCompletes := by
  intro s rest hpending
  rw [step_of_pending_engine hpending]
  refine ⟨fun hidle => engineStep_of_idle hidle, fun hbusy => ?_⟩
  obtain ⟨t, ht, hcompletes⟩ := engineStep_completes (s := { s with pending := rest }) hbusy
  obtain ⟨hidle, hdone, hlastop, hovr, hcoll⟩ := hcompletes.status
  exact ⟨t, ht, hcompletes.frame, hidle, hdone, hlastop, hovr, hcoll, hcompletes.err_of_errcode_eq_zero,
    hcompletes.eq_failed_of_errcode_ne_zero⟩

/-- Settles O30: 0 is the CMD value of NOP, and no other value decodes to NOP. -/
theorem nopResult : Obligations.NopResult := by
  refine ⟨fun s => (execNop_eq s).trans (congrArg _ s.finish_eq_succeeded), fun v _ => ⟨fun h => ?_, ?_⟩⟩
  · exact (encodeOfDecode v .nop h).1.symm
  · rintro rfl
    exact decodeOfEncode .nop rfl

/-! ### Accept and overrun -/

theorem State.issue_of_idle {s : State} (hidle : s.status.busy = false) (v : B64) : s.issue v = s.accept v := by
  rw [State.issue, hidle, if_neg Bool.false_ne_true]

theorem State.issue_of_busy {s : State} (hbusy : s.status.busy = true) (v : B64) :
    s.issue v = { s with status := s.status.overrun } := if_pos hbusy

/-- R37: a host write of `v` to CMD, taken from the script. -/
theorem step_of_pending_cmd {s : State} {v : B64} {rest : List Turn}
    (h : s.pending = .host (.write .regs .w8 0x018 v) :: rest) :
    step s = .next (({ s with pending := rest } : State).issue v) := by
  rw [step_of_pending_host h, hostAccess_write_aligned _ v (by norm_num) (by norm_num), State.regWrite_cmd]

/-- Settles O8: an idle block accepts. -/
theorem acceptLatchesCommand : Obligations.AcceptLatchesCommand := by
  intro s v rest hpending hidle
  exact (step_of_pending_cmd hpending).trans (congrArg _ (State.issue_of_idle (s := { s with pending := rest }) hidle v))

/-- Settles O9: a busy block overruns. -/
theorem overrunKeepsCommand : Obligations.OverrunKeepsCommand := by
  intro s v rest hpending hbusy
  exact (step_of_pending_cmd hpending).trans (congrArg _ (State.issue_of_busy (s := { s with pending := rest }) hbusy v))

/-! ### The snapshot of the command in flight -/

/-- R141: `t` is busy with the command in flight in `s`, and holds the same inputs of it. -/
structure SameSnapshot (s t : State) : Prop where
  cmdl : t.cmdl = s.cmdl
  argl : t.argl = s.argl
  slots : t.slots = s.slots
  dmem : t.dmem = s.dmem
  resets : t.resets = s.resets
  res : t.res = s.res
  busy : t.status.busy = true

theorem State.ctrlWrite_of_not_softReset (s : State) {v : B64} (h : ¬ v.getLsbD 1 = true) :
    s.ctrlWrite v = { s with ie := v.getLsbD 0 } := if_neg h

/-- R90: a DMEM write that reaches the busy block is refused, whatever its width and alignment. -/
theorem eq_collide_of_write_dmem {s t : State} {w : Width} {off : Nat} {v : B64} (hbusy : s.status.busy = true)
    (h : hostAccess s (.write .dmem w off v) = .next t) : t = s.collide := by
  have hoff : off < Config.dmemBytes := by
    by_contra hoff
    rw [hostAccess_outside s (a := .write .dmem w off v) hoff] at h
    cases h
  rw [hostAccess_write_dmem_busy w v hbusy hoff] at h
  exact (Host.Outcome.next.inj h).symm

/-- R141, by what the access does: a CTRL write sets IE alone, a CMD write overruns, a DMEM write collides. -/
theorem hostAccess_sameSnapshot {s t : State} {a : Access} (hbusy : s.status.busy = true) (hreset : ¬ a.isSoftReset)
    (h : hostAccess s a = .next t) : SameSnapshot s t := by
  cases hostAccess_effect h with
  | ignored | answered | readCollides | writeCollides | status | arg => exact ⟨rfl, rfl, rfl, rfl, rfl, rfl, hbusy⟩
  | stored w off v =>
    rw [eq_collide_of_write_dmem hbusy h]
    exact ⟨rfl, rfl, rfl, rfl, rfl, rfl, hbusy⟩
  | ctrl v =>
    rw [s.ctrlWrite_of_not_softReset hreset]
    exact ⟨rfl, rfl, rfl, rfl, rfl, rfl, hbusy⟩
  | cmd v =>
    rw [State.issue_of_busy hbusy]
    exact ⟨rfl, rfl, rfl, rfl, rfl, rfl, hbusy⟩

/-- Settles O27. -/
theorem hostCannotChangeSnapshot : Obligations.HostCannotChangeSnapshot := by
  intro s t a hbusy hreset h
  obtain ⟨hcmdl, hargl, hslots, hdmem, hresets, hres, hbusy'⟩ := hostAccess_sameSnapshot hbusy hreset h
  exact ⟨hcmdl, hargl, hslots, hdmem, hresets, hres, hbusy'⟩

/-! ### Scripts of host accesses -/

theorem Turn.isHostInside_iff {turn : Turn} : turn.isHostInside ↔ ∃ a : Access, turn = .host a ∧ a.inside := by
  cases turn <;> simp [Turn.isHostInside]

/-- After an engine turn the block is idle; and if a command was in flight, it has completed. -/
theorem engineStep_status (s : State) : ∃ t, engineStep s = .next t ∧ t.status.busy = false ∧
    (s.status.busy = true → t.status.done = true ∧ t.status.lastop = s.cmdl.extractLsb' 0 8) := by
  cases hbusy : s.status.busy with
  | false => exact ⟨s, engineStep_of_idle hbusy, hbusy, fun h => nomatch h⟩
  | true =>
    obtain ⟨t, ht, hcompletes⟩ := engineStep_completes hbusy
    obtain ⟨hidle, hdone, hlastop, -, -⟩ := hcompletes.status
    exact ⟨t, ht, hidle, fun _ => ⟨hdone, hlastop⟩⟩

/-- R144: a script of host accesses and the engine's turn after it, from a busy or an idle state. The engine moves when the
script is done; before that no access but a soft reset ends the command in flight. -/
theorem run_host_script (turns : List Turn) : ∀ s : State, s.pending = turns → (∀ turn ∈ turns, turn.isHostInside) →
    ∃ t, Host.Core.run core (turns.length + 1) s = .next t ∧ t.status.busy = false ∧
      (s.status.busy = true → (∀ a, .host a ∈ turns → ¬ a.isSoftReset) →
        t.status.done = true ∧ t.status.lastop = s.cmdl.extractLsb' 0 8 ∧ t.pending = []) := by
  induction turns with
  | nil =>
    intro s hpending _
    obtain ⟨t, ht, hidle, hcompleted⟩ := engineStep_status s
    refine ⟨t, run_core_succ 0 ((step_of_pending_nil hpending).trans ht), hidle, fun hbusy _ => ?_⟩
    obtain ⟨hdone, hlastop⟩ := hcompleted hbusy
    exact ⟨hdone, hlastop, (engineStep_pending ht).trans hpending⟩
  | cons turn rest ih =>
    intro s hpending hinside
    obtain ⟨a, rfl, ha⟩ := Turn.isHostInside_iff.1 (hinside turn List.mem_cons_self)
    obtain ⟨u, hu, heffect⟩ := hostAccess_inside { s with pending := rest } ha
    obtain ⟨t, ht, hidle, hcompleted⟩ := ih u heffect.pending_eq fun turn hturn => hinside turn (List.mem_cons_of_mem _ hturn)
    refine ⟨t, (run_core_succ _ ((step_of_pending_host hpending).trans hu)).trans ht, hidle, fun hbusy hreset => ?_⟩
    have hsnapshot := hostAccess_sameSnapshot (s := { s with pending := rest }) hbusy (hreset a List.mem_cons_self) hu
    rw [← show u.cmdl = s.cmdl from hsnapshot.cmdl]
    exact hcompleted hsnapshot.busy fun b hb => hreset b (List.mem_cons_of_mem _ hb)

/-- Settles O26: the script of the state is one of host accesses. -/
theorem commandEventuallyCompletes : Obligations.CommandEventuallyCompletes := by
  intro s hbusy hinside
  obtain ⟨t, ht, hidle, hcompleted⟩ := run_host_script s.pending s rfl hinside
  exact ⟨t, ht, hidle, hcompleted hbusy⟩

end Sys2Proof.Machine
end

section
/-!
PROOF. Where each command of many operands fails, and with which code (40_common.md R146 to R151, 60_exceptions.md R304):
the checks as a chain of conditions on the operands, in their order, and the code that the command reports.
-/

namespace Sys2Proof.Machine

/-! ### When a check fails -/

theorem inRange_eq_false_iff (a len : Nat) : inRange a len = false ↔ len ≠ 0 ∧ Config.dmemBytes < a + len := by
  rw [← Bool.not_eq_true, inRange_iff]
  omega

theorem channelsInRange_eq_false_iff (base stride n c : Nat) : channelsInRange base stride n c = false ↔
    ∃ k, k < c ∧ n ≠ 0 ∧ Config.dmemBytes < base + k * stride + 4 * n := by
  simp [← Bool.not_eq_true, channelsInRange_iff, inRange_iff, channelBase]

theorem clearOfChannels_eq_false_iff (bp nblk base stride n c : Nat) :
    clearOfChannels bp (8 * nblk) base stride n c = false ↔
      ∃ k, k < c ∧ n ≠ 0 ∧ nblk ≠ 0 ∧ bp < base + k * stride + 4 * n ∧ base + k * stride < bp + 8 * nblk := by
  simp [← Bool.not_eq_true, clearOfChannels_iff, overlap_iff, channelBase, and_left_comm]

/-- R304: a check whose failure is the condition `fails`, before the checks that follow it. -/
theorem firstError_cons {ok : Bool} {fails : Prop} [Decidable fails] (h : ok = false ↔ fails) (e : ErrCode)
    (rest : List (Bool × ErrCode)) : firstError ((ok, e) :: rest) = if fails then some e else firstError rest := by
  cases ok <;> simp [firstError, ← h]

theorem firstError_bufferChecks (src dst n : Nat) : firstError (bufferChecks src dst n) =
    if src % 4 ≠ 0 ∨ dst % 4 ≠ 0 then some .align
    else if n ≠ 0 ∧ (Config.dmemBytes < src + 4 * n ∨ Config.dmemBytes < dst + 4 * n) then some .range
    else if n ≠ 0 ∧ src < dst + 4 * n ∧ dst < src + 4 * n ∧ src ≠ dst then some .overlap
    else none := by
  have halign : (src % 4 == 0 && dst % 4 == 0) = false ↔ src % 4 ≠ 0 ∨ dst % 4 ≠ 0 := by
    simp only [Bool.and_eq_false_iff, beq_eq_false_iff_ne]
  have hrange : (inRange src (4 * n) && inRange dst (4 * n)) = false ↔
      n ≠ 0 ∧ (Config.dmemBytes < src + 4 * n ∨ Config.dmemBytes < dst + 4 * n) := by
    rw [Bool.and_eq_false_iff, inRange_eq_false_iff, inRange_eq_false_iff]
    omega
  have hoverlap : (!(overlap src (4 * n) dst (4 * n) && src != dst)) = false ↔
      n ≠ 0 ∧ src < dst + 4 * n ∧ dst < src + 4 * n ∧ src ≠ dst := by
    rw [Bool.not_eq_false', Bool.and_eq_true, overlap_iff, bne_iff_ne]
    omega
  rw [bufferChecks, firstError_cons halign, firstError_cons hrange, firstError_cons hoverlap, firstError]

theorem firstError_lufsChecks (base stride n bp nblk c : Nat) : firstError (lufsChecks base stride n bp nblk c) =
    if base % 4 ≠ 0 ∨ stride % 4 ≠ 0 ∨ bp % 8 ≠ 0 then some .align
    else if (∃ k, k < c ∧ n ≠ 0 ∧ Config.dmemBytes < base + k * stride + 4 * n) ∨
        (nblk ≠ 0 ∧ Config.dmemBytes < bp + 8 * nblk) then some .range
    else if ∃ k, k < c ∧ n ≠ 0 ∧ nblk ≠ 0 ∧ bp < base + k * stride + 4 * n ∧ base + k * stride < bp + 8 * nblk then
      some .overlap
    else none := by
  have halign : (base % 4 == 0 && stride % 4 == 0 && bp % 8 == 0) = false ↔
      base % 4 ≠ 0 ∨ stride % 4 ≠ 0 ∨ bp % 8 ≠ 0 := by
    simp only [Bool.and_eq_false_iff, beq_eq_false_iff_ne, or_assoc]
  have hpowers : inRange bp (8 * nblk) = false ↔ nblk ≠ 0 ∧ Config.dmemBytes < bp + 8 * nblk := by
    rw [inRange_eq_false_iff]
    omega
  have hrange : (channelsInRange base stride n c && inRange bp (8 * nblk)) = false ↔
      (∃ k, k < c ∧ n ≠ 0 ∧ Config.dmemBytes < base + k * stride + 4 * n) ∨
        (nblk ≠ 0 ∧ Config.dmemBytes < bp + 8 * nblk) := by
    rw [Bool.and_eq_false_iff, channelsInRange_eq_false_iff, hpowers]
  rw [lufsChecks, firstError_cons halign, firstError_cons hrange,
    firstError_cons (clearOfChannels_eq_false_iff bp nblk base stride n c), firstError]

theorem firstError_tpChecks (base stride n c : Nat) : firstError (tpChecks base stride n c) =
    if base % 4 ≠ 0 ∨ stride % 4 ≠ 0 then some .align
    else if ∃ k, k < c ∧ n ≠ 0 ∧ Config.dmemBytes < base + k * stride + 4 * n then some .range
    else none := by
  have halign : (base % 4 == 0 && stride % 4 == 0) = false ↔ base % 4 ≠ 0 ∨ stride % 4 ≠ 0 := by
    simp only [Bool.and_eq_false_iff, beq_eq_false_iff_ne]
  rw [tpChecks, firstError_cons halign, firstError_cons (channelsInRange_eq_false_iff base stride n c), firstError]

/-! ### What a command reports -/

/-- R142, R306: the outcome `o` of a command at `s` is an error completion with the given code, or, without one, a
completion with success. -/
def Reports (s : State) (o : Host.Outcome State Fault Refusal) : Option ErrCode → Prop
  | some e => o = .next { s with status := s.failed e.byte }
  | none => ∃ t, o = .next t ∧ t.status = s.succeeded

theorem Reports.of_raise {s : State} {o : Host.Outcome State Fault Refusal} {e : ErrCode} (h : o = .next (s.raise e)) :
    Reports s o (some e) := h

theorem Reports.of_finish {s u : State} {o : Host.Outcome State Fault Refusal} (hstatus : u.status = s.status)
    (hcmdl : u.cmdl = s.cmdl) (h : o = .next u.finish) : Reports s o none := by
  refine ⟨u.finish, h, ?_⟩
  rw [State.finish_status, State.opByte, hstatus, hcmdl]
  rfl

/-- The two ways a command goes on from its last list of checks. -/
theorem Reports.of_checks {s u : State} {o : Host.Outcome State Fault Refusal} {code : Option ErrCode}
    (hstatus : u.status = s.status) (hcmdl : u.cmdl = s.cmdl)
    (h : (∃ e, code = some e ∧ o = .next (s.raise e)) ∨ (code = none ∧ o = .next u.finish)) : Reports s o code := by
  rcases h with ⟨e, rfl, h⟩ | ⟨rfl, h⟩
  · exact .of_raise h
  · exact .of_finish hstatus hcmdl h

theorem reports_ite {s : State} {o : Host.Outcome State Fault Refusal} {p : Prop} [Decidable p] {c d : Option ErrCode} :
    Reports s o (if p then c else d) = if p then Reports s o c else Reports s o d := apply_ite (Reports s o) p c d

/-- BQ_RUN reports an absent slot, then the first check that fails. -/
theorem execBqRun_reports (slot : BitVec 4) (s : State) : Reports s (execBqRun slot s)
    (if Config.nbq ≤ slot.toNat then some .illcmd
     else firstError (bufferChecks (s.argU 0) (s.argU 1) (s.argU 2))) := by
  rcases execBqRun_cases slot s with ⟨hslot, h⟩ | ⟨k, hslot, hrun⟩
  · have habsent : Config.nbq ≤ slot.toNat := by
      by_contra hlt
      rw [slotIndex_of_lt (Nat.not_le.1 hlt)] at hslot
      cases hslot
    rw [if_pos habsent]
    exact .of_raise h
  · have hpresent : ¬ Config.nbq ≤ slot.toNat := by
      rw [← slotIndex_eq_some hslot]
      exact Nat.not_le.2 k.isLt
    rw [if_neg hpresent]
    exact .of_checks (by simp) (by simp) hrun

theorem rateOf_eq_none_iff (hz : Nat) : rateOf hz = none ↔ hz ≠ 44100 ∧ hz ≠ 48000 := by
  unfold rateOf
  split_ifs <;> simp_all

/-- KW_APPLY reports an unsupported rate, then the first check that fails. -/
theorem execKwApply_reports (s : State) : Reports s (execKwApply s)
    (if s.argU 3 ≠ 44100 ∧ s.argU 3 ≠ 48000 then some .rate
     else firstError (bufferChecks (s.argU 0) (s.argU 1) (s.argU 2))) := by
  simp only [← rateOf_eq_none_iff]
  rcases execKwApply_cases s with ⟨hrate, h⟩ | ⟨r, hrate, hrun⟩
  · rw [if_pos hrate]
    exact .of_raise h
  · rw [if_neg (by simp [hrate])]
    exact .of_checks (by simp) (by simp) hrun

/-- LUFS_MEASURE reports too many channels, then nothing when there are none, then an unsupported rate, then the first check
that fails; `nblk` is the block count when the rate is supported. -/
theorem execLufsMeasure_reports (nch : BitVec 4) (s : State) {nblk : Nat}
    (hnblk : ∀ r, rateOf (s.argU 3) = some r → nblk = blockCount r (s.argU 2)) : Reports s (execLufsMeasure nch s)
    (if Config.chMax < nch.toNat then some .illcmd
     else if nch = 0 then none
     else if s.argU 3 ≠ 44100 ∧ s.argU 3 ≠ 48000 then some .rate
     else firstError (lufsChecks (s.argU 0) (s.argU 1) (s.argU 2) (s.argU 4) nblk nch.toNat)) := by
  have hzero : nch = 0 ↔ nch.toNat = 0 := BitVec.toNat_inj.symm
  simp only [← rateOf_eq_none_iff, hzero]
  rcases execLufsMeasure_cases nch s with ⟨hmany, h⟩ | ⟨hnone, h⟩ | ⟨hfew, hsome, ⟨hrate, h⟩ | ⟨r, hrate, hrun⟩⟩
  · rw [if_pos hmany]
    exact .of_raise h
  · rw [if_neg (by omega), if_pos hnone]
    exact .of_finish (by simp) (by simp) h
  · rw [if_neg (by omega), if_neg hsome, if_pos hrate]
    exact .of_raise h
  · rw [if_neg (by omega), if_neg hsome, if_neg (by simp [hrate]), hnblk r hrate]
    exact .of_checks (by simp) (by simp) hrun

/-- TP_MEASURE reports too many channels, then nothing when there are none, then the first check that fails. -/
theorem execTpMeasure_reports (nch : BitVec 4) (s : State) : Reports s (execTpMeasure nch s)
    (if Config.chMax < nch.toNat then some .illcmd
     else if nch = 0 then none
     else firstError (tpChecks (s.argU 0) (s.argU 1) (s.argU 2) nch.toNat)) := by
  have hzero : nch = 0 ↔ nch.toNat = 0 := BitVec.toNat_inj.symm
  simp only [hzero]
  rcases execTpMeasure_cases nch s with ⟨hmany, h⟩ | ⟨hnone, h⟩ | ⟨hfew, hsome, hrun⟩
  · rw [if_pos hmany]
    exact .of_raise h
  · rw [if_neg (by omega), if_pos hnone]
    exact .of_finish (by simp) (by simp) h
  · rw [if_neg (by omega), if_neg hsome]
    exact .of_checks (by simp) (by simp) hrun

/-! ### The statements about errors -/

/-- Settles O36: the slot number first, then the three checks of the buffers. -/
theorem bqRunErrors : Obligations.BqRunErrors := by
  rintro slot s _ _ _ rfl rfl rfl
  have h := execBqRun_reports slot s
  simp only [firstError_bufferChecks, reports_ite] at h
  exact h

/-- Settles O41: the rate first, then the three checks of the buffers. -/
theorem kwApplyErrors : Obligations.KwApplyErrors := by
  rintro s _ _ _ _ rfl rfl rfl rfl
  have h := execKwApply_reports s
  simp only [firstError_bufferChecks, reports_ite] at h
  exact h

/-- R222, R223: the numbers of R222 give the block count at a supported rate. -/
theorem blockCount_of_rateOf {hz n : Nat} {r : KwRate} (h : rateOf hz = some r) :
    (if hz = 48000 then (if 19200 ≤ n then (n - 19200) / 4800 + 1 else 0)
      else if 17640 ≤ n then (n - 17640) / 4410 + 1 else 0) = blockCount r n := by
  rcases (rateOf_eq_some hz r).1 h with ⟨rfl, rfl⟩ | ⟨rfl, rfl⟩ <;> rfl

/-- Settles O45: the channel count first, then the rate, then the three checks of the channels and the block powers. -/
theorem lufsErrors : Obligations.LufsErrors := by
  rintro nch s _ _ _ _ _ _ rfl rfl rfl rfl rfl rfl
  have h := execLufsMeasure_reports nch s fun r hrate => blockCount_of_rateOf hrate
  simp only [firstError_lufsChecks, reports_ite] at h
  exact h

/-- Settles O52: the channel count first, then the two checks of the channels. -/
theorem tpErrors : Obligations.TpErrors := by
  rintro nch s _ _ _ rfl rfl rfl
  have h := execTpMeasure_reports nch s
  simp only [firstError_tpChecks, reports_ite] at h
  exact h

end Sys2Proof.Machine
end

section
/-!
PROOF. A buffer of samples in DMEM, and a buffer through a filter (20_memory.md R81, R87, 41_biquad.md R169, R183): storing
and loading samples, and the list form of a filter against its form by index.
-/

namespace Sys2Proof.Machine

/-! ### Samples in memory -/

/-- R81: a sample depends only on its four bytes. -/
theorem State.loadS_congr {s t : State} {a : Nat} (h : ∀ j, j < 4 → t.byteAt (a + j) = s.byteAt (a + j)) :
    t.loadS a = s.loadS a := by
  rw [State.loadS, State.loadS, State.memRead_congr 4 h]

/-- R16: a sample that was stored loads as itself. -/
theorem State.loadS_storeS (s : State) (a : Nat) (v : B32) : (s.storeS a v).loadS a = v := by
  rw [State.loadS, State.storeS, State.memRead_of_bytes _ 4 a v.toNat fun j hj => s.byteAt_memWrite_inside a v.toNat hj,
    ← two_pow_eight_mul, Nat.mod_eq_of_lt v.isLt, BitVec.ofNat_toNat, BitVec.setWidth_eq]

/-- Storing samples changes no sample that ends before the region or starts after it. -/
theorem State.loadS_storeSamples_outside (s : State) {a b : Nat} (vs : List B32)
    (h : b + 4 ≤ a ∨ a + 4 * vs.length ≤ b) : (s.storeSamples a vs).loadS b = s.loadS b :=
  loadS_congr fun _ _ => byteAt_storeSamples_outside vs s a _ (by omega)

/-- R87: sample `i` of the region holds element `i` of the list. -/
theorem State.loadS_storeSamples (vs : List B32) : ∀ (s : State) (a : Nat) {i : Nat} (hi : i < vs.length),
    (s.storeSamples a vs).loadS (a + 4 * i) = vs[i] := by
  induction vs with
  | nil => intro s a i hi; cases hi
  | cons v vs ih =>
    intro s a i hi
    cases i with
    | zero =>
      rw [State.storeSamples, loadS_storeSamples_outside _ vs (by omega)]
      exact s.loadS_storeS a v
    | succ i =>
      rw [State.storeSamples, Nat.mul_succ, Nat.add_comm (4 * i), ← Nat.add_assoc]
      exact ih (s.storeS a v) (a + 4) (Nat.lt_of_succ_lt_succ hi)

theorem State.storeSamples_append (vs ws : List B32) : ∀ (s : State) (a : Nat),
    s.storeSamples a (vs ++ ws) = (s.storeSamples a vs).storeSamples (a + 4 * vs.length) ws := by
  induction vs with
  | nil => exact fun _ _ => rfl
  | cons v vs ih =>
    intro s a
    rw [List.cons_append, State.storeSamples, ih, State.storeSamples, List.length_cons, Nat.mul_succ, Nat.add_comm (4 * _),
      Nat.add_assoc]

/-- An operation that passes over each store passes over storing a buffer. -/
theorem State.storeSamples_comm {F : State → State} (hF : ∀ s a v, F (s.storeS a v) = (F s).storeS a v) (vs : List B32) :
    ∀ (s : State) (a : Nat), F (s.storeSamples a vs) = (F s).storeSamples a vs := by
  induction vs with
  | nil => exact fun _ _ => rfl
  | cons v vs ih => intro s a; rw [State.storeSamples, ih, hF, State.storeSamples]

theorem State.loadSamples_add (s : State) (a m n : Nat) :
    s.loadSamples a (m + n) = s.loadSamples a m ++ s.loadSamples (a + 4 * m) n := by
  simp [State.loadSamples, List.range_add, sampleAddr, Nat.mul_add, Nat.add_assoc]

/-- A buffer reads alike in two states that hold the same samples in it. -/
theorem State.loadSamples_congr {s t : State} {a n : Nat} (h : ∀ i, i < n → t.loadS (a + 4 * i) = s.loadS (a + 4 * i)) :
    t.loadSamples a n = s.loadSamples a n :=
  List.map_congr_left fun i hi => h i (List.mem_range.1 hi)

/-! ### A buffer through a filter -/

/-- R183, R184: the state carries over from one buffer to the next. -/
theorem runFilter_append (xs ys : List B32) : ∀ f : Biquad, runFilter f (xs ++ ys) =
    ((runFilter f xs).1 ++ (runFilter (runFilter f xs).2 ys).1, (runFilter (runFilter f xs).2 ys).2) := by
  induction xs with
  | nil => exact fun _ => rfl
  | cons x xs ih => intro f; simp only [List.cons_append, runFilter, ih]

/-- R182: a filter over a buffer, by the index of the sample. -/
theorem runFilter_map_range (f : Biquad) (x : Nat → B32) (n : Nat) : runFilter f ((List.range n).map x) =
    ((List.range n).map fun i => round32 (biquadOutput f (fun j => widen (x j)) i),
      biquadAfter f (fun j => widen (x j)) n) := by
  induction n with
  | zero => rfl
  | succ n ih =>
    simp only [List.range_succ, List.map_append, List.map_cons, List.map_nil, runFilter_append, ih, runFilter]
    rfl

end Sys2Proof.Machine
end

section
/-!
PROOF. The biquad commands on one slot (41_biquad.md R170, R171, R175, R178, R186): BQ_LOAD and its quotients, BQ_RESET, and
BQ_STEP, which on the unity biquad is the identity.
-/

namespace Sys2Proof.Machine

/-! ### The results of BQ_LOAD, BQ_RESET and BQ_STEP -/

/-- R115 part 5: the command on an absent slot. -/
theorem slotIndex_of_absent {slot : BitVec 4} (h : Config.nbq ≤ slot.toNat) : slotIndex slot = none :=
  slotIndex_of_not_lt (Nat.not_lt.2 h)

theorem execBqLoad_present {slot : BitVec 4} (s : State) (h : slot.toNat < Config.nbq) : execBqLoad slot s =
    .next (s.setSlot ⟨slot.toNat, h⟩
      (constructed (s.argB 0) (s.argB 1) (s.argB 2) (s.argB 3) (s.argB 4) (s.argB 5))).finish := by
  simp only [execBqLoad, slotIndex_of_lt h]

theorem execBqLoad_absent {slot : BitVec 4} (s : State) (h : Config.nbq ≤ slot.toNat) :
    execBqLoad slot s = .next (s.raise .illcmd) := by
  simp only [execBqLoad, slotIndex_of_absent h]

theorem execBqReset_present {slot : BitVec 4} (s : State) (h : slot.toNat < Config.nbq) : execBqReset slot s =
    .next (s.setSlot ⟨slot.toNat, h⟩ s.slots[slot.toNat].zeroState).finish := by
  simp only [execBqReset, slotIndex_of_lt h]
  rfl

theorem execBqReset_absent {slot : BitVec 4} (s : State) (h : Config.nbq ≤ slot.toNat) :
    execBqReset slot s = .next (s.raise .illcmd) := by
  simp only [execBqReset, slotIndex_of_absent h]

theorem execBqStep_present {slot : BitVec 4} (s : State) (h : slot.toNat < Config.nbq) : execBqStep slot s =
    .next ((s.setSlot ⟨slot.toNat, h⟩ (df1 s.slots[slot.toNat] s.argl[0]).2).setRes 0
      (s.slots[slot.toNat].output s.argl[0])).finish := by
  simp only [execBqStep, slotIndex_of_lt h]
  rfl

/-- R178: what BQ_STEP leaves in the slots and in RES0. -/
theorem execBqStep_result {slot : BitVec 4} (s : State) (h : slot.toNat < Config.nbq) :
    ∃ t, execBqStep slot s = .next t ∧ t.slots = s.slots.set slot.toNat (df1 s.slots[slot.toNat] s.argl[0]).2 ∧
      t.res[0] = s.slots[slot.toNat].output s.argl[0] :=
  ⟨_, execBqStep_present s h, rfl, Vector.getElem_set_self (by decide)⟩

theorem execBqStep_absent {slot : BitVec 4} (s : State) (h : Config.nbq ≤ slot.toNat) :
    execBqStep slot s = .next (s.raise .illcmd) := by
  simp only [execBqStep, slotIndex_of_absent h]

/-- Settles O31: the constructed biquad is written out in the statement, and the quotients of the example evaluate. -/
theorem bqLoadResult : Obligations.BqLoadResult := by
  refine ⟨fun slot s => ⟨rfl, fun h => execBqLoad_present s h, fun h => execBqLoad_absent s h⟩, ?_⟩
  decide +kernel

/-- Settles O33: `Biquad.zeroState` keeps the coefficients. -/
theorem bqResetResult : Obligations.BqResetResult :=
  fun _ s => ⟨rfl, fun h => execBqReset_present s h, fun h => execBqReset_absent s h⟩

/-- Settles O34: the filter step is written out in the statement, and its example evaluates. -/
theorem bqStepResult : Obligations.BqStepResult := by
  refine ⟨fun slot s => ⟨rfl, fun h => execBqStep_present s h, fun h => execBqStep_absent s h⟩, ?_⟩
  decide +kernel

/-! ### Exact arithmetic with the coefficients 1.0 and +0.0 -/

/-- The pattern is a finite datum with the value `q`. -/
def HasValue (v : B64) (q : ℚ) : Prop := finite64 v ∧ val64 v = q

theorem hasValue_zero : HasValue 0 0 := ⟨by unfold finite64; decide, val64_eq_zero.2 rfl⟩

theorem hasValue_one : HasValue 0x3FF0000000000000 1 := by
  have hcount : natToB64 1 = 0x3FF0000000000000 := by decide +kernel
  rw [← hcount]
  exact_mod_cast natToB64_exact (n := 1) (by norm_num)

namespace HasValue

variable {x z : B64} {q : ℚ}

theorem of_finite (h : finite64 x) : HasValue x (val64 x) := ⟨h, rfl⟩

/-- The rounding of a value that a finite datum has exactly. -/
theorem of_roundsTo64 (hx : HasValue x q) (h : roundsTo64 q z) : HasValue z q := by
  obtain ⟨hfinite, rfl⟩ := hx
  exact h.eq_of_exact hfinite

theorem one_fmul (h : HasValue x q) : HasValue (fmul 0x3FF0000000000000 x) q := by
  have hround := roundsTo64_fmul hasValue_one.1 h.1
  rw [hasValue_one.2, h.2, one_mul] at hround
  exact h.of_roundsTo64 hround

theorem zero_fmul (h : finite64 x) : HasValue (fmul 0 x) 0 := by
  have hround := roundsTo64_fmul hasValue_zero.1 h
  rw [hasValue_zero.2, zero_mul] at hround
  exact hasValue_zero.of_roundsTo64 hround

theorem fadd_zero (hx : HasValue x q) (hz : HasValue z 0) : HasValue (fadd x z) q := by
  have hround := roundsTo64_fadd hx.1 hz.1
  rw [hx.2, hz.2, add_zero] at hround
  exact hx.of_roundsTo64 hround

theorem fsub_zero (hx : HasValue x q) (hz : HasValue z 0) : HasValue (fsub x z) q :=
  hx.fadd_zero ⟨finite64_flipSign64 hz.1, by rw [val64_flipSign64, hz.2, neg_zero]⟩

theorem fdiv_one (h : HasValue x q) : HasValue (fdiv x 0x3FF0000000000000) q := by
  have hround := roundsTo64_fdiv h.1 hasValue_one.1 (hasValue_one.2 ▸ one_ne_zero)
  rw [hasValue_one.2, h.2, div_one] at hround
  exact h.of_roundsTo64 hround

/-- R26: finite data of one value compare equal. -/
theorem feq (hx : finite64 x) (hz : HasValue z (val64 x)) : feq z x = true := by
  simp [Machine.feq, hx, hz.1, order64_eq_iff, hz.2]

end HasValue

/-! ### The corner quotients of BQ_LOAD -/

/-- A pattern is given by its sign and its value. -/
theorem eq_of_neg64_of_val64 {x y : B64} (hneg : neg64 x = neg64 y) (hval : val64 x = val64 y) : x = y := by
  have horder := (order64_eq_iff x y).2 hval
  apply BitVec.eq_of_toNat_eq
  rw [toNat_eq_sign_mag64, toNat_eq_sign_mag64, hneg]
  simp only [order64, hneg] at horder
  split at horder <;> omega

/-- A pattern that is neither a NaN nor finite is an infinity. -/
theorem eq_inf64 {x : B64} (hnan : ¬ nanPattern64 x) (hfinite : ¬ finite64 x) : x = inf64 (neg64 x) := by
  rw [nanPattern64_iff] at hnan
  rw [finite64_iff] at hfinite
  apply BitVec.eq_of_toNat_eq
  rw [toNat_eq_sign_mag64, toNat_eq_sign_mag64, neg64_inf64, mag64_inf64]
  omega

/-- R171: the quotient by 1.0 has the sign and the value of the numerator. -/
theorem fdiv_one {x : B64} (hnan : ¬ nanPattern64 x) : fdiv x 0x3FF0000000000000 = x := by
  by_cases hx : finite64 x
  · refine eq_of_neg64_of_val64 ?_ (HasValue.of_finite hx).fdiv_one.2
    rw [fdiv_of_finite hx hasValue_one.1, if_neg (hasValue_one.2 ▸ one_ne_zero), neg64_round64]
    exact Bool.xor_false _
  · rw [eq_inf64 hnan hx]
    cases neg64 x <;> rfl

/-- R171: a finite number that is not zero over +0.0. -/
theorem fdiv_zero {x : B64} (hx : finite64 x) (hne : val64 x ≠ 0) : fdiv x 0 = inf64 (neg64 x) := by
  rw [fdiv_of_finite hx hasValue_zero.1, if_pos hasValue_zero.2, if_neg hne, inf64_eq_pack64]
  exact congrArg (pack64 · infMag64) (Bool.xor_false _)

theorem fdiv_of_nan {x y : B64} (h : nanPattern64 x ∨ nanPattern64 y) : fdiv x y = nan64 := by
  rw [← isNaN64_iff, ← isNaN64_iff, ← Bool.or_eq_true] at h
  rw [fdiv, if_pos h]

/-- Settles O32: the quotients of one zero or of 1.0 evaluate, the others are `fdiv_zero`, `fdiv_one` and `fdiv_of_nan`. -/
theorem bqLoadCornerQuotients : Obligations.BqLoadCornerQuotients := by
  refine ⟨fun x hx hne => ?_, by decide +kernel, by decide +kernel, by decide +kernel, by decide +kernel,
    fun x => fdiv_one, fun x y => fdiv_of_nan⟩
  rw [fdiv_zero hx hne, getLsbD_sign64, inf64]

/-! ### The unity biquad -/

/-- R186: the filter has the unity coefficients and a finite state. -/
structure UnityFinite (f : Biquad) : Prop where
  unity : f = { Biquad.unity with x1 := f.x1, x2 := f.x2, y1 := f.y1, y2 := f.y2 }
  x1 : finite64 f.x1
  x2 : finite64 f.x2
  y1 : finite64 f.y1
  y2 : finite64 f.y2

/-- R186: with these coefficients the output is 1.0·x and four terms of value 0. -/
theorem UnityFinite.output {f : Biquad} {x : B64} (hf : UnityFinite f) (hx : finite64 x) :
    HasValue (f.output x) (val64 x) := by
  rw [hf.unity]
  exact HasValue.of_finite hx |>.one_fmul |>.fadd_zero (.zero_fmul hf.x1) |>.fadd_zero (.zero_fmul hf.x2)
    |>.fsub_zero (.zero_fmul hf.y1) |>.fsub_zero (.zero_fmul hf.y2)

/-- R186: a step with a finite input keeps the coefficients, and its output is finite. -/
theorem UnityFinite.step {f : Biquad} {x : B64} (hf : UnityFinite f) (hx : finite64 x) : UnityFinite (df1 f x).2 where
  unity := congrArg (fun g : Biquad => { g with x2 := f.x1, x1 := x, y2 := f.y1, y1 := f.output x }) hf.unity
  x1 := hx
  x2 := hf.x1
  y1 := (hf.output hx).1
  y2 := hf.y1

/-- Settles O39: the output is finite and has the value of the input. -/
theorem unityBiquadIsIdentity : Obligations.UnityBiquadIsIdentity := by
  intro slot s h f hunity hx1 hx2 hy1 hy2 hx
  have hf : UnityFinite f := ⟨hunity, hx1, hx2, hy1, hy2⟩
  obtain ⟨t, ht, hslots, hres⟩ := execBqStep_result s h
  have hslot : t.slots[slot.toNat] = (df1 f s.argl[0]).2 := by simp only [hslots, Vector.getElem_set_self, f]
  refine ⟨t, ht, hres ▸ HasValue.feq hx (hf.output hx), ?_⟩
  rw [hslot]
  obtain ⟨hunity', hx1', hx2', hy1', hy2'⟩ := hf.step hx
  exact ⟨hunity', hx1', hx2', hy1', hy2'⟩

end Sys2Proof.Machine
end

section
/-!
PROOF. BQ_RUN (41_biquad.md R182 to R185, 70_reset_and_hazards.md R356): what a run leaves where its checks pass, that it is
the sequence of BQ_STEP commands, and that two runs are one.
-/

namespace Sys2Proof.Machine

/-! ### What a run leaves -/

/-- R182 to R184: BQ_RUN on slot `k`, past its checks. -/
def State.ranBuffer (s : State) (k : Fin Config.nbq) (src dst n : Nat) : State :=
  ((s.setSlot k (runFilter s.slots[k] (s.loadSamples src n)).2).storeSamples dst
    (runFilter s.slots[k] (s.loadSamples src n)).1).finish

/-- R87: the buffer as the input signal of a filter. -/
def State.signal (s : State) (src : Nat) : Nat → B64 := fun i => widen (s.loadS (src + 4 * i))

theorem State.runFilter_loadSamples (s : State) (f : Biquad) (src n : Nat) : runFilter f (s.loadSamples src n) =
    ((List.range n).map fun i => round32 (biquadOutput f (s.signal src) i), biquadAfter f (s.signal src) n) :=
  runFilter_map_range f _ n

theorem bufferChecks_pass_iff (src dst n : Nat) : firstError (bufferChecks src dst n) = none ↔
    src % 4 = 0 ∧ dst % 4 = 0 ∧ (n = 0 ∨ (src + 4 * n ≤ Config.dmemBytes ∧ dst + 4 * n ≤ Config.dmemBytes)) ∧
      (src = dst ∨ n = 0 ∨ src + 4 * n ≤ dst ∨ dst + 4 * n ≤ src) := by
  rw [bufferChecks_pass, inRange_iff, inRange_iff, overlap_iff]
  omega

theorem execBqRun_of_pass {slot : BitVec 4} {s : State} (h : slot.toNat < Config.nbq)
    (hpass : firstError (bufferChecks (s.argU 0) (s.argU 1) (s.argU 2)) = none) :
    execBqRun slot s = .next (s.ranBuffer ⟨slot.toNat, h⟩ (s.argU 0) (s.argU 1) (s.argU 2)) := by
  simp only [execBqRun, slotIndex_of_lt h, hpass]
  rfl

/-- R142: BQ_RUN ends with ERRCODE 0x00 only when it ran. -/
theorem execBqRun_of_success {slot : BitVec 4} {s t : State} (hexec : execBqRun slot s = .next t)
    (hcode : t.status.errcode = 0x00) : ∃ h : slot.toNat < Config.nbq,
      firstError (bufferChecks (s.argU 0) (s.argU 1) (s.argU 2)) = none ∧
        t = s.ranBuffer ⟨slot.toNat, h⟩ (s.argU 0) (s.argU 1) (s.argU 2) := by
  have hraise : ∀ e, execBqRun slot s ≠ .next (s.raise e) := by
    intro e he
    obtain rfl : t = s.raise e := Host.Outcome.next.inj (hexec.symm.trans he)
    exact e.byte_ne_zero hcode
  rcases execBqRun_cases slot s with ⟨-, he⟩ | ⟨k, hk, ⟨e, -, he⟩ | ⟨hpass, -⟩⟩
  · exact absurd he (hraise _)
  · exact absurd he (hraise _)
  · have h : slot.toNat < Config.nbq := slotIndex_eq_some hk ▸ k.isLt
    exact ⟨h, hpass, Host.Outcome.next.inj (hexec.symm.trans (execBqRun_of_pass h hpass))⟩

section
variable (s : State) (k : Fin Config.nbq) (src dst n : Nat)

theorem State.ranBuffer_frame : s.ranBuffer k src dst n = { s with
    status := s.succeeded
    slots := s.slots.set k (biquadAfter s.slots[k] (s.signal src) n)
    dmem := (s.ranBuffer k src dst n).dmem } := by
  rw [State.ranBuffer, State.storeSamples_eq, runFilter_loadSamples]
  rfl

theorem State.ranBuffer_slots :
    (s.ranBuffer k src dst n).slots = s.slots.set k (biquadAfter s.slots[k] (s.signal src) n) :=
  congrArg State.slots (s.ranBuffer_frame k src dst n)

theorem State.loadS_ranBuffer {i : Nat} (hi : i < n) : (s.ranBuffer k src dst n).loadS (dst + 4 * i) =
    round32 (biquadOutput s.slots[k] (s.signal src) i) := by
  rw [State.ranBuffer, runFilter_loadSamples]
  refine (State.loadS_storeSamples _ _ dst (by simpa using hi)).trans ?_
  rw [List.getElem_map, List.getElem_range]

theorem State.byteAt_ranBuffer_outside {a : Nat} (ha : a < dst ∨ dst + 4 * n ≤ a) :
    (s.ranBuffer k src dst n).byteAt a = s.byteAt a :=
  State.byteAt_storeSamples_outside _ _ dst a (by rwa [length_runFilter, State.length_loadSamples])

end

/-- Settles O35: the hypotheses are that the checks pass. -/
theorem bqRunResult : Obligations.BqRunResult := by
  rintro slot s _ _ _ h rfl rfl rfl hsrc hdst hrange hoverlap
  have hpass := (bufferChecks_pass_iff _ _ _).2 ⟨hsrc, hdst, hrange, hoverlap⟩
  exact ⟨_, execBqRun_of_pass h hpass, s.ranBuffer_frame .., fun i hi => s.loadS_ranBuffer _ _ _ _ hi,
    fun a ha => s.byteAt_ranBuffer_outside _ _ _ _ ha⟩

/-! ### A run and the sequence of BQ_STEP commands -/

theorem stepMany_succ {slot : BitVec 4} {x : Nat → B64} {s u : State} {n : Nat} (h : slot.toNat < Config.nbq)
    (hu : stepMany slot x s n = some u) : ∃ v, stepMany slot x s (n + 1) = some v ∧
      v.slots = u.slots.set slot.toNat (df1 u.slots[slot.toNat] (x n)).2 ∧
      v.res[0] = (df1 u.slots[slot.toNat] (x n)).1 := by
  obtain ⟨v, hv, hslots, hres⟩ := execBqStep_result { u with argl := u.argl.set 0 (x n) } h
  have hexec : exec (.bqStep slot) { u with argl := u.argl.set 0 (x n) } = .next v := hv
  simp only [Vector.getElem_set_self] at hslots hres
  exact ⟨v, by simp only [stepMany, hu, hexec], hslots, hres⟩

/-- R185: the commands leave in the slot the filter after their inputs. -/
theorem stepMany_slots {slot : BitVec 4} (x : Nat → B64) (s : State) (h : slot.toNat < Config.nbq) (n : Nat) :
    ∃ u, stepMany slot x s n = some u ∧
      u.slots = s.slots.set slot.toNat (biquadAfter s.slots[slot.toNat] x n) := by
  induction n with
  | zero => exact ⟨s, rfl, (Vector.set_getElem_self h).symm⟩
  | succ n ih =>
    obtain ⟨u, hu, hslots⟩ := ih
    obtain ⟨v, hv, hvslots, -⟩ := stepMany_succ h hu
    refine ⟨v, hv, ?_⟩
    simp only [hvslots, hslots, Vector.getElem_set_self, Vector.set_set]
    rfl

/-- R185: command `n` leaves in RES0 the output of the filter for input `n`. -/
theorem stepMany_res {slot : BitVec 4} (x : Nat → B64) (s : State) (h : slot.toNat < Config.nbq) (n : Nat) :
    ∃ v, stepMany slot x s (n + 1) = some v ∧ v.res[0] = biquadOutput s.slots[slot.toNat] x n := by
  obtain ⟨u, hu, hslots⟩ := stepMany_slots x s h n
  obtain ⟨v, hv, -, hres⟩ := stepMany_succ h hu
  refine ⟨v, hv, ?_⟩
  simp only [hres, hslots, Vector.getElem_set_self]
  rfl

/-- Settles O37: the run and the commands both follow the filter of the slot over the widened samples. -/
theorem bqRunEqualsSteps : Obligations.BqRunEqualsSteps := by
  rintro slot s t _ _ _ rfl rfl rfl hexec hcode
  obtain ⟨h, -, rfl⟩ := execBqRun_of_success hexec hcode
  refine ⟨?_, fun i hi => ?_⟩
  · obtain ⟨u, hu, hslots⟩ := stepMany_slots (s.signal (s.argU 0)) s h (s.argU 2)
    exact ⟨u, hu, (s.ranBuffer_slots ..).trans hslots.symm⟩
  · obtain ⟨v, hv, hres⟩ := stepMany_res (s.signal (s.argU 0)) s h i
    exact ⟨v, hv, hres ▸ s.loadS_ranBuffer _ _ _ _ hi⟩

/-! ### Two runs and one -/

/-- R147 to R149: the checks of a run pass for its two parts, and the second part reads nothing that the first stores. -/
theorem bufferChecks_split {src dst n1 n2 : Nat} (hpass : firstError (bufferChecks src dst (n1 + n2)) = none) :
    firstError (bufferChecks src dst n1) = none ∧ firstError (bufferChecks (src + 4 * n1) (dst + 4 * n1) n2) = none ∧
      ∀ i, i < n2 → src + 4 * n1 + 4 * i + 4 ≤ dst ∨ dst + 4 * n1 ≤ src + 4 * n1 + 4 * i := by
  rw [bufferChecks_pass_iff] at hpass
  rw [bufferChecks_pass_iff, bufferChecks_pass_iff]
  exact ⟨by omega, by omega, by omega⟩

/-- A run by the outputs and the filter it ends with. -/
theorem State.ranBuffer_eq {s : State} {k : Fin Config.nbq} {src n : Nat} (dst : Nat) {out : List B32} {f : Biquad}
    (h : runFilter s.slots[k] (s.loadSamples src n) = (out, f)) :
    s.ranBuffer k src dst n = ((s.storeSamples dst out).setSlot k f).finish := by
  rw [State.ranBuffer, h, storeSamples_comm (F := fun u => u.setSlot k f) fun _ _ _ => rfl]

/-- R184, R356: the second run goes on where the first one stopped. -/
theorem State.ranBuffer_add (s : State) (k : Fin Config.nbq) {src dst n1 n2 : Nat}
    (hdisjoint : ∀ i, i < n2 → src + 4 * n1 + 4 * i + 4 ≤ dst ∨ dst + 4 * n1 ≤ src + 4 * n1 + 4 * i) :
    (s.ranBuffer k src dst n1).ranBuffer k (src + 4 * n1) (dst + 4 * n1) n2 = s.ranBuffer k src dst (n1 + n2) := by
  rcases hfirst : runFilter s.slots[k] (s.loadSamples src n1) with ⟨out1, f1⟩
  rcases hsecond : runFilter f1 (s.loadSamples (src + 4 * n1) n2) with ⟨out2, f2⟩
  have hlength : out1.length = n1 := by
    have := length_runFilter (s.loadSamples src n1) s.slots[k]
    rwa [hfirst, length_loadSamples] at this
  have hslot : (s.ranBuffer k src dst n1).slots[k] = f1 := by simp [ranBuffer_eq dst hfirst]
  have hload : (s.ranBuffer k src dst n1).loadSamples (src + 4 * n1) n2 = s.loadSamples (src + 4 * n1) n2 :=
    loadSamples_congr fun i hi => loadS_congr fun j hj => s.byteAt_ranBuffer_outside k src dst n1 (by
      have := hdisjoint i hi
      omega)
  have hwhole : runFilter s.slots[k] (s.loadSamples src (n1 + n2)) = (out1 ++ out2, f2) := by
    rw [loadSamples_add, runFilter_append, hfirst, hsecond]
  calc (s.ranBuffer k src dst n1).ranBuffer k (src + 4 * n1) (dst + 4 * n1) n2
      = (((((s.storeSamples dst out1).setSlot k f1).finish).storeSamples (dst + 4 * n1) out2).setSlot k f2).finish := by
        rw [ranBuffer_eq _ (by rw [hslot, hload, hsecond]), ranBuffer_eq dst hfirst]
    _ = (((((s.storeSamples dst out1).storeSamples (dst + 4 * n1) out2).setSlot k f1).finish).setSlot k f2).finish := by
        rw [storeSamples_comm (F := fun u => (u.setSlot k f1).finish) (fun _ _ _ => rfl) out2]
    _ = (((s.storeSamples dst out1).storeSamples (dst + 4 * n1) out2).setSlot k f2).finish := by
        simp [State.setSlot, State.finish, Vector.set_set, State.opByte, Status.succeed]
    _ = s.ranBuffer k src dst (n1 + n2) := by
        rw [ranBuffer_eq dst hwhole, storeSamples_append, hlength]

/-- R67, R113: the state with three operands latched, and `rest` in the latches that hold none of them. -/
def State.withOperands (s : State) (rest : Vector B64 8) (src dst n : Nat) : State :=
  { s with argl := ((rest.set 0 (BitVec.ofNat 64 src)).set 1 (BitVec.ofNat 64 dst)).set 2 (BitVec.ofNat 64 n) }

theorem State.argU_withOperands (s : State) (rest : Vector B64 8) {src dst n : Nat} (hsrc : src < 2 ^ 64)
    (hdst : dst < 2 ^ 64) (hn : n < 2 ^ 64) : (s.withOperands rest src dst n).argU 0 = src ∧
      (s.withOperands rest src dst n).argU 1 = dst ∧ (s.withOperands rest src dst n).argU 2 = n := by
  simpa [State.argU, State.withOperands] using ⟨hsrc, hdst, hn⟩

/-- A run reads no latches beyond its operands. -/
theorem State.ranBuffer_withOperands (s : State) (rest : Vector B64 8) (a b c : Nat) (k : Fin Config.nbq) (src dst n : Nat) :
    (s.withOperands rest a b c).ranBuffer k src dst n = (s.ranBuffer k src dst n).withOperands rest a b c := by
  rcases h : runFilter s.slots[k] (s.loadSamples src n) with ⟨out, f⟩
  rw [ranBuffer_eq dst h, ranBuffer_eq (s := s.withOperands rest a b c) dst h,
    ← storeSamples_comm (F := fun u => u.withOperands rest a b c) fun _ _ _ => rfl]
  rfl

theorem execBqRun_withOperands {slot : BitVec 4} (s : State) (rest : Vector B64 8) {src dst n : Nat} (hsrc : src < 2 ^ 64)
    (hdst : dst < 2 ^ 64) (hn : n < 2 ^ 64) (h : slot.toNat < Config.nbq)
    (hpass : firstError (bufferChecks src dst n) = none) : execBqRun slot (s.withOperands rest src dst n) =
      .next ((s.ranBuffer ⟨slot.toNat, h⟩ src dst n).withOperands rest src dst n) := by
  obtain ⟨hsrc', hdst', hn'⟩ := s.argU_withOperands rest hsrc hdst hn
  rw [execBqRun_of_pass h (by rwa [hsrc', hdst', hn']), hsrc', hdst', hn', State.ranBuffer_withOperands]

/-- Settles O38: the checks pass for the two parts, and the second part goes on where the first one stopped. -/
theorem bqRunsConcatenate : Obligations.BqRunsConcatenate := by
  intro slot s t src dst n1 n2 rest hsrc hdst hn hsrc1 hdst1 at3 hexec hcode
  obtain ⟨hsrc', hdst', hn'⟩ := s.argU_withOperands rest hsrc hdst hn
  obtain ⟨h, hpass, ht⟩ := execBqRun_of_success (s := s.withOperands rest src dst (n1 + n2)) hexec hcode
  rw [hsrc', hdst', hn'] at hpass ht
  obtain ⟨hpass1, hpass2, hdisjoint⟩ := bufferChecks_split hpass
  rw [State.ranBuffer_withOperands, ← s.ranBuffer_add _ hdisjoint] at ht
  refine ⟨_, _, execBqRun_withOperands s rest hsrc hdst (by omega) h hpass1,
    execBqRun_withOperands _ rest hsrc1 hdst1 (by omega) h hpass2, ?_⟩
  rw [State.ranBuffer_withOperands, ht]
  exact ⟨rfl, rfl, rfl⟩

end Sys2Proof.Machine
end

section
/-!
PROOF. KW_APPLY (42_kweighting.md R203 to R205): the two passes by the index of the sample, what the command leaves where its
checks pass, and how a NaN sample runs through both filters.
-/

namespace Sys2Proof.Machine

/-! ### The two passes -/

/-- R201: the coefficients of the ROM are those of the table. -/
theorem kwFilter_eq_freshKw (r : KwRate) : kwFilter r 0 = freshKw r 0 ∧ kwFilter r 1 = freshKw r 1 := by
  cases r <;> exact ⟨rfl, rfl⟩

/-- R203: the two passes, by the index of the sample. -/
theorem kWeight_map_range (r : KwRate) (x : Nat → B32) (n : Nat) :
    kWeight r ((List.range n).map x) = (List.range n).map (kwOut r x) := by
  obtain ⟨hpre, hrlb⟩ := kwFilter_eq_freshKw r
  have hmid : (kwPrePass r ((List.range n).map x)).1 = (List.range n).map (kwMid r x) := by
    rw [kwPrePass, hpre, runFilter_map_range]
    rfl
  rw [kWeight, kwRlbPass, hmid, hrlb, runFilter_map_range]
  rfl

/-! ### What the command leaves -/

/-- R204: KW_APPLY, past its checks. -/
def State.kWeighted (s : State) (r : KwRate) (src dst n : Nat) : State :=
  ((s.setKwFilters r (s.loadSamples src n)).storeSamples dst (kWeight r (s.loadSamples src n))).finish

theorem execKwApply_of_pass {s : State} {r : KwRate} (hrate : rateOf (s.argU 3) = some r)
    (hpass : firstError (bufferChecks (s.argU 0) (s.argU 1) (s.argU 2)) = none) :
    execKwApply s = .next (s.kWeighted r (s.argU 0) (s.argU 1) (s.argU 2)) := by
  simp only [execKwApply, hrate, hpass]
  rfl

/-- R142, R306: an answer with ERRCODE 0x00 is no error completion. -/
theorem ne_raise_of_success {o : Host.Outcome State Fault Refusal} {s t : State} (h : o = .next t)
    (hcode : t.status.errcode = 0x00) (e : ErrCode) : o ≠ .next (s.raise e) := by
  intro he
  obtain rfl : t = s.raise e := Host.Outcome.next.inj (h.symm.trans he)
  exact e.byte_ne_zero hcode

/-- R142: KW_APPLY ends with ERRCODE 0x00 only when it filtered the buffer. -/
theorem execKwApply_of_success {s t : State} (hexec : execKwApply s = .next t) (hcode : t.status.errcode = 0x00) :
    ∃ r, t = s.kWeighted r (s.argU 0) (s.argU 1) (s.argU 2) := by
  rcases execKwApply_cases s with ⟨-, he⟩ | ⟨r, hrate, ⟨e, -, he⟩ | ⟨hpass, -⟩⟩
  · exact absurd he (ne_raise_of_success hexec hcode _)
  · exact absurd he (ne_raise_of_success hexec hcode _)
  · exact ⟨r, Host.Outcome.next.inj (hexec.symm.trans (execKwApply_of_pass hrate hpass))⟩

section
variable (s : State) (r : KwRate) (src dst n : Nat)

theorem State.kWeighted_frame : s.kWeighted r src dst n = { s with
    status := s.succeeded
    dmem := (s.kWeighted r src dst n).dmem
    kwpre := (s.kWeighted r src dst n).kwpre
    kwrlb := (s.kWeighted r src dst n).kwrlb } := by
  rw [State.kWeighted, State.storeSamples_eq]
  rfl

theorem State.loadS_kWeighted {i : Nat} (hi : i < n) : (s.kWeighted r src dst n).loadS (dst + 4 * i) =
    kwOut r (fun j => s.loadS (src + 4 * j)) i := by
  have hout : kWeight r (s.loadSamples src n) = (List.range n).map (kwOut r fun j => s.loadS (src + 4 * j)) :=
    kWeight_map_range r _ n
  rw [State.kWeighted, hout]
  refine (State.loadS_storeSamples _ _ dst (by simpa using hi)).trans ?_
  rw [List.getElem_map, List.getElem_range]

theorem State.byteAt_kWeighted_outside {a : Nat} (ha : a < dst ∨ dst + 4 * n ≤ a) :
    (s.kWeighted r src dst n).byteAt a = s.byteAt a :=
  State.byteAt_storeSamples_outside _ _ dst a (by rwa [length_kWeight, State.length_loadSamples])

end

/-- Settles O40: the hypotheses are that the rate is supported and the checks pass. -/
theorem kwApplyResult : Obligations.KwApplyResult := by
  rintro s _ _ _ r rfl rfl rfl hhz hsrc hdst hrange hoverlap
  have hrate : rateOf (s.argU 3) = some r := by
    rw [rateOf_eq_some]
    cases r with
    | hz48000 => exact .inl ⟨hhz, rfl⟩
    | hz44100 => exact .inr ⟨hhz, rfl⟩
  have hpass := (bufferChecks_pass_iff _ _ _).2 ⟨hsrc, hdst, hrange, hoverlap⟩
  exact ⟨_, execKwApply_of_pass hrate hpass, s.kWeighted_frame .., fun i hi => s.loadS_kWeighted _ _ _ _ hi,
    fun a ha => s.byteAt_kWeighted_outside _ _ _ _ ha⟩

/-! ### A NaN through a filter -/

theorem nanPattern64_nan64 : nanPattern64 nan64 := by unfold nanPattern64; decide

theorem nanPattern32_nan32 : nanPattern32 nan32 := by unfold nanPattern32; decide

/-- R21: a NaN operand of a sum, a difference or a product makes it the canonical NaN. -/
theorem arith_of_nan {a b : B64} (h : nanPattern64 a ∨ nanPattern64 b) :
    fadd a b = nan64 ∧ fsub a b = nan64 ∧ fmul a b = nan64 := by
  obtain ⟨-, hoperand, -⟩ := naNsAndComparisons
  obtain ⟨hadd, hsub, hmul, -⟩ := hoperand a b h
  exact ⟨hadd, hsub, hmul⟩

section
variable {a b : B64}

theorem nanPattern64_fadd (h : nanPattern64 a ∨ nanPattern64 b) : nanPattern64 (fadd a b) :=
  let ⟨hadd, _, _⟩ := arith_of_nan h
  hadd ▸ nanPattern64_nan64

theorem nanPattern64_fsub (h : nanPattern64 a ∨ nanPattern64 b) : nanPattern64 (fsub a b) :=
  let ⟨_, hsub, _⟩ := arith_of_nan h
  hsub ▸ nanPattern64_nan64

theorem nanPattern64_fmul (h : nanPattern64 a ∨ nanPattern64 b) : nanPattern64 (fmul a b) :=
  let ⟨_, _, hmul⟩ := arith_of_nan h
  hmul ▸ nanPattern64_nan64

end

/-- R22: a NaN sample widens to a NaN. -/
theorem nanPattern64_widen {v : B32} (h : nanPattern32 v) : nanPattern64 (widen v) := by
  obtain ⟨-, -, -, hwiden, -⟩ := conversionsAreCorrectlyRounded
  exact hwiden v h ▸ nanPattern64_nan64

/-- R23: a NaN rounds to the canonical `b32` NaN. -/
theorem round32_of_nan {v : B64} (h : nanPattern64 v) : round32 v = nan32 := by
  obtain ⟨-, -, -, -, -, -, -, hround, -⟩ := conversionsAreCorrectlyRounded
  exact hround v h

/-- R169: the output is a NaN when the input or the last output is, whatever the coefficients. -/
theorem Biquad.nanPattern64_output {f : Biquad} {x : B64} (h : nanPattern64 x ∨ nanPattern64 f.y1) :
    nanPattern64 (f.output x) := by
  refine nanPattern64_fsub (.inl ?_)
  rcases h with hx | hy1
  · exact nanPattern64_fsub (.inl (nanPattern64_fadd (.inl (nanPattern64_fadd (.inl (nanPattern64_fmul (.inr hx)))))))
  · exact nanPattern64_fsub (.inr (nanPattern64_fmul (.inr hy1)))

/-- R169: a NaN input makes its own output a NaN, and each output, kept in Y1, the next one. -/
theorem nanPattern64_biquadOutput {f : Biquad} {x : Nat → B64} {j i : Nat} (h : nanPattern64 (x j)) (hji : j ≤ i) :
    nanPattern64 (biquadOutput f x i) := by
  induction i, hji using Nat.le_induction with
  | base => exact Biquad.nanPattern64_output (.inl h)
  | succ i _ ih => exact Biquad.nanPattern64_output (f := biquadAfter f x (i + 1)) (.inr ih)

/-- R183, R205: one pass over a buffer stores the canonical NaN for a NaN sample and for all that follow it. -/
theorem round32_biquadOutput_of_nan (f : Biquad) {x : Nat → B32} {j i : Nat} (h : nanPattern32 (x j)) (hji : j ≤ i) :
    round32 (biquadOutput f (fun k => widen (x k)) i) = nan32 :=
  round32_of_nan (nanPattern64_biquadOutput (nanPattern64_widen h) hji)

/-- R203, R205: the pre-filter stores a NaN for the NaN sample, from which the RLB filter stores nothing else. -/
theorem kwOut_of_nan (r : KwRate) {x : Nat → B32} {j i : Nat} (h : nanPattern32 (x j)) (hji : j ≤ i) :
    kwOut r x i = nan32 := by
  have hmid : kwMid r x j = nan32 := round32_biquadOutput_of_nan (freshKw r 0) h le_rfl
  exact round32_biquadOutput_of_nan (freshKw r 1) (hmid ▸ nanPattern32_nan32) hji

/-- Settles O42: the stored samples are the outputs of two passes, and each pass carries the NaN on. -/
theorem kwNaNSpreads : Obligations.KwNaNSpreads := by
  rintro s t _ _ _ j rfl rfl rfl hexec hcode - hnan i hji hi
  obtain ⟨r, rfl⟩ := execKwApply_of_success hexec hcode
  exact (s.loadS_kWeighted r _ _ _ hi).trans (kwOut_of_nan r hnan hji)

end Sys2Proof.Machine
end

section
/-!
PROOF. Block powers and the dual gate by index (43_lufs.md R222 to R231, 42_kweighting.md R207): the lists that LUFS_MEASURE
computes, against the sums over the indices of samples, channels and blocks.
-/

namespace Sys2Proof.Machine

/-! ### Block powers -/

theorem blockLength_eq_lengthB (r : KwRate) : blockLength r = lengthB r := by cases r <;> rfl

theorem blockHop_eq_hopH (r : KwRate) : blockHop r = hopH r := by cases r <;> rfl

/-- R224: the block lengths as `b64`. -/
theorem natToB64_blockLength (r : KwRate) : natToB64 (blockLength r) = lengthPattern r := by cases r <;> decide +kernel

/-- R230: the divisor of the relative gate, and the factor of R234. -/
theorem natToB64_ten : natToB64 10 = 0x4024000000000000 := by decide +kernel

theorem channelWeight_eq_weightOf (nch c : Nat) : channelWeight nch c = weightOf nch c := by
  by_cases hnch : nch = 6 <;> simp [channelWeight, weightOf, cW51, hnch]

/-- R223: block `j` exists exactly when it ends within the samples. -/
theorem lt_blockCount_iff (r : KwRate) (n j : Nat) : j < blockCount r n ↔ j * hopH r + lengthB r ≤ n := by
  rw [blockCount, blockLength_eq_lengthB, blockHop_eq_hopH]
  split <;> cases r <;> simp only [hopH, lengthB] at * <;> omega

theorem blockCount_eq {r : KwRate} {n nblk : Nat} (h : ∀ j, j < nblk ↔ j * hopH r + lengthB r ≤ n) :
    blockCount r n = nblk := eq_of_forall_lt_iff fun j => (lt_blockCount_iff r n j).trans (h j).symm

/-- R235: samples that are fewer than a block hold none. -/
theorem blockCount_eq_zero {r : KwRate} {n : Nat} (h : n < lengthB r) : blockCount r n = 0 :=
  Nat.eq_zero_of_not_pos fun hpos => by
    have := (lt_blockCount_iff r n 0).1 hpos
    omega

theorem fsum_map_range (n : Nat) (t : Nat → B64) : fsum ((List.range n).map t) = sumUpTo n t := List.foldl_map

theorem sumUpTo_congr {n : Nat} {t u : Nat → B64} (h : ∀ i, i < n → t i = u i) : sumUpTo n t = sumUpTo n u :=
  List.foldl_ext _ _ _ fun acc i hi => congrArg (fadd acc) (h i (List.mem_range.1 hi))

theorem sumUpTo_succ (n : Nat) (t : Nat → B64) : sumUpTo (n + 1) t = fadd (sumUpTo n t) (t n) := by
  simp [sumUpTo, List.range_succ]

/-- R223: the samples of a whole block. -/
theorem blockSamples_map_range {r : KwRate} {n j : Nat} (k : Nat → B32) (hj : j < blockCount r n) :
    blockSamples r j ((List.range n).map k) = (List.range (blockLength r)).map fun i => k (j * hopH r + i) := by
  have hend := (lt_blockCount_iff r n j).1 hj
  rw [blockSamples, blockLength_eq_lengthB, blockHop_eq_hopH]
  apply List.ext_getElem
  · simp; omega
  · simp

theorem meanSquare_map_range {r : KwRate} {n j : Nat} (k : Nat → B32) (hj : j < blockCount r n) :
    meanSquare r j ((List.range n).map k) = meanSquareFrom r (j * hopH r) k := by
  rw [meanSquare, blockSamples_map_range k hj, List.map_map, fsum_map_range, natToB64_blockLength, blockLength_eq_lengthB]
  rfl

theorem zipIdx_map_range {α : Type} (n : Nat) (f : Nat → α) :
    ((List.range n).map f).zipIdx = (List.range n).map fun i => (f i, i) := by
  apply List.ext_getElem <;> simp

/-- R225: the power of a whole block of channels of `n` samples. -/
theorem blockPower_map_range {r : KwRate} {n j : Nat} (nch : Nat) (k : Nat → Nat → B32) (hj : j < blockCount r n) :
    blockPower r ((List.range nch).map fun c => (List.range n).map (k c)) j = powerOf r nch k j := by
  rw [blockPower, zipIdx_map_range, List.map_map, fsum_map_range]
  refine sumUpTo_congr fun c _ => ?_
  simp [channelWeight_eq_weightOf, meanSquare_map_range (k c) hj]

/-! ### The dual gate -/

section
variable (p : Nat → B64)

theorem meanPower_map (js : List Nat) : meanPower (js.map p) = meanOf p js := by
  simp [meanPower, meanOf, fsum, List.foldl_map]

theorem absoluteGate_map_range (nblk : Nat) : absoluteGate ((List.range nblk).map p) = (survivorsAbs p nblk).map p :=
  List.filter_map

theorem relativeGate_map (js : List Nat) : relativeGate (js.map p) = (survivorsRel p js).map p := by
  rw [relativeGate, meanPower_map, natToB64_ten]
  exact List.filter_map

/-- R228 to R231: the gate by the indices of the blocks. -/
theorem gate_map_range (nblk : Nat) : gate ((List.range nblk).map p) =
    { nabs := (survivorsAbs p nblk).length
      m1 := meanOf p (survivorsAbs p nblk)
      nrel := (survivorsRel p (survivorsAbs p nblk)).length
      g := meanOf p (survivorsRel p (survivorsAbs p nblk)) } := by
  simp only [gate, absoluteGate_map_range, relativeGate_map, meanPower_map, List.length_map]

end

/-- R234: the loudness with the constant and the factor as patterns. -/
theorem loudness_eq (g : B64) : loudness g = if feq g 0 then 0xFFF0000000000000
    else fadd 0xBFE61CAC083126E9 (fmul 0x4024000000000000 (fLog10 g)) := by
  rw [loudness, natToB64_ten]
  rfl

end Sys2Proof.Machine
end

section
/-!
PROOF. What LUFS_MEASURE leaves (43_lufs.md R220 to R226, R234): the stored block powers, the RES registers and the frame of
the command where its checks pass, and of the command with no channels.
-/

namespace Sys2Proof.Machine

/-! ### Block powers in memory -/

/-- R226: entry `j` of the stored list of powers reads back. -/
theorem State.memRead_storePowers (vs : List B64) : ∀ (s : State) (a : Nat) {j : Nat} (hj : j < vs.length),
    (s.storePowers a vs).memRead (a + 8 * j) 8 = vs[j].toNat := by
  induction vs with
  | nil => intro s a j hj; cases hj
  | cons v vs ih =>
    intro s a j hj
    cases j with
    | zero =>
      have hread := State.memRead_of_bytes (s.storeD a v) 8 a v.toNat fun j hj => s.byteAt_memWrite_inside a v.toNat hj
      rw [← two_pow_eight_mul, Nat.mod_eq_of_lt v.isLt] at hread
      rw [State.storePowers]
      exact (State.memRead_congr 8 fun j hj => State.byteAt_storePowers_outside vs _ _ _ (by omega)).trans hread
    | succ j =>
      rw [State.storePowers, Nat.mul_succ, Nat.add_comm (8 * j), ← Nat.add_assoc]
      exact ih (s.storeD a v) (a + 8) (Nat.lt_of_succ_lt_succ hj)

/-! ### The measurement -/

/-- R203, R220: sample `i` of channel `c` of the command in flight, K-weighted. -/
def State.weighted (s : State) (r : KwRate) (c : Nat) : Nat → B32 :=
  kwOut r fun i => s.loadS (s.argU 0 + c * s.argU 1 + 4 * i)

theorem State.kWeighted_channels (s : State) (r : KwRate) (nch : Nat) : (s.channels nch).map (kWeight r) =
    (List.range nch).map fun c => (List.range (s.argU 2)).map (s.weighted r c) := by
  rw [State.channels, List.map_map]
  exact List.map_congr_left fun c _ => kWeight_map_range r _ _

/-- R225: the block powers of the command, by the index of the block. -/
theorem State.blockPowers_eq (s : State) (nch : Nat) (r : KwRate) : s.blockPowers nch r =
    (List.range (blockCount r (s.argU 2))).map (powerOf r nch (s.weighted r)) := by
  rw [State.blockPowers, kWeighted_channels]
  exact List.map_congr_left fun j hj => blockPower_map_range nch _ (List.mem_range.1 hj)

/-- R220: LUFS_MEASURE of `nch` channels, past its checks. -/
def State.measured (s : State) (nch : Nat) (r : KwRate) : State :=
  (((s.setKwFilters r ((s.channels nch).getD (nch - 1) [])).storePowers (s.argU 4) (s.blockPowers nch r)).setLufs
    (blockCount r (s.argU 2)) (gate (s.blockPowers nch r))).finish

/-- R151: the operand of a supported rate. -/
theorem rateOf_of_toNat {v : B64} {r : KwRate} (h : v.toNat = match r with | .hz48000 => 48000 | .hz44100 => 44100) :
    rateOf v.toNat = some r := by
  rw [h]
  cases r <;> rfl

theorem execLufsMeasure_of_pass {nch : BitVec 4} {s : State} {r : KwRate} (hmany : nch.toNat ≤ Config.chMax)
    (hsome : nch ≠ 0) (hrate : rateOf (s.argU 3) = some r)
    (hpass : firstError (lufsChecks (s.argU 0) (s.argU 1) (s.argU 2) (s.argU 4) (blockCount r (s.argU 2)) nch.toNat) = none) :
    execLufsMeasure nch s = .next (s.measured nch.toNat r) := by
  have hzero : nch.toNat ≠ 0 := fun h => hsome (BitVec.toNat_inj.1 h)
  simp only [execLufsMeasure, if_neg (Nat.not_lt.2 hmany), if_neg hzero, hrate, hpass]
  rfl

/-- R142: LUFS_MEASURE of some channels ends with ERRCODE 0x00 only when it measured them, at the rate of its operand. -/
theorem execLufsMeasure_of_success {nch : BitVec 4} {s t : State} (hsome : nch ≠ 0) (hexec : execLufsMeasure nch s = .next t)
    (hcode : t.status.errcode = 0x00) : ∃ r, rateOf (s.argU 3) = some r ∧ t = s.measured nch.toNat r := by
  rcases execLufsMeasure_cases nch s with ⟨-, he⟩ | ⟨hzero, -⟩ | ⟨hmany, -, ⟨-, he⟩ | ⟨r, hrate, ⟨e, -, he⟩ | ⟨hpass, -⟩⟩⟩
  · exact absurd he (ne_raise_of_success hexec hcode _)
  · exact absurd (BitVec.toNat_inj.1 hzero) hsome
  · exact absurd he (ne_raise_of_success hexec hcode _)
  · exact absurd he (ne_raise_of_success hexec hcode _)
  · exact ⟨r, hrate, Host.Outcome.next.inj (hexec.symm.trans (execLufsMeasure_of_pass hmany hsome hrate hpass))⟩

/-- R220: the results, register by register. -/
theorem State.setLufs_results (s : State) (nblk : Nat) (g : Gated) :
    (s.setLufs nblk g).res[0] = loudness g.g ∧ (s.setLufs nblk g).res[1] = g.g ∧
      (s.setLufs nblk g).res[2] = BitVec.ofNat 64 nblk ∧ (s.setLufs nblk g).res[3] = BitVec.ofNat 64 g.nabs ∧
      (s.setLufs nblk g).res[4] = BitVec.ofNat 64 g.nrel ∧ (s.setLufs nblk g).res[5] = g.m1 ∧
      (s.setLufs nblk g).res[6] = s.res[6] ∧ (s.setLufs nblk g).res[7] = s.res[7] := by
  simp [State.setLufs]

/-- R220, R142: writing the results of a measurement and completing it changes STATUS and RES alone. -/
theorem State.finish_setLufs_eq (u : State) (nblk : Nat) (g : Gated) :
    (u.setLufs nblk g).finish = { u with status := u.succeeded, res := (u.setLufs nblk g).res } := by
  simp [State.setLufs, State.setRes, State.finish_eq_succeeded, State.succeeded]

section
variable (s : State) (nch : Nat) (r : KwRate)

/-- R220: the fields that a measurement writes. -/
theorem State.measured_eq : s.measured nch r = { s with
    status := s.succeeded
    res := (s.setLufs (blockCount r (s.argU 2)) (gate (s.blockPowers nch r))).res
    dmem := ((s.setKwFilters r ((s.channels nch).getD (nch - 1) [])).storePowers (s.argU 4) (s.blockPowers nch r)).dmem
    kwpre := (kwPrePass r ((s.channels nch).getD (nch - 1) [])).2
    kwrlb := (kwRlbPass r ((s.channels nch).getD (nch - 1) [])).2 } := by
  rw [State.measured, finish_setLufs_eq]
  generalize s.blockPowers nch r = ps, (s.channels nch).getD (nch - 1) [] = xs, gate _ = g
  rw [State.storePowers_eq]
  rfl

theorem State.measured_frame : s.measured nch r = { s with
    status := s.succeeded
    res := (s.measured nch r).res
    dmem := (s.measured nch r).dmem
    kwpre := (s.measured nch r).kwpre
    kwrlb := (s.measured nch r).kwrlb } := by
  rw [measured_eq]

/-- R220, R228 to R231, R234: the results of a measurement, by the indices of its blocks. -/
theorem State.measured_results :
    let p := powerOf r nch (s.weighted r)
    let as := survivorsAbs p (blockCount r (s.argU 2))
    let rs := survivorsRel p as
    let g := meanOf p rs
    (s.measured nch r).res[0] = (if feq g 0 then 0xFFF0000000000000
        else fadd 0xBFE61CAC083126E9 (fmul 0x4024000000000000 (fLog10 g))) ∧
      (s.measured nch r).res[1] = g ∧ (s.measured nch r).res[2] = BitVec.ofNat 64 (blockCount r (s.argU 2)) ∧
      (s.measured nch r).res[3] = BitVec.ofNat 64 as.length ∧ (s.measured nch r).res[4] = BitVec.ofNat 64 rs.length ∧
      (s.measured nch r).res[5] = meanOf p as ∧ (s.measured nch r).res[6] = s.res[6] ∧
      (s.measured nch r).res[7] = s.res[7] := by
  intro p as rs g
  have hres : (s.measured nch r).res = (s.setLufs (blockCount r (s.argU 2)) (gate (s.blockPowers nch r))).res := by
    rw [measured_eq]
  rw [hres, s.blockPowers_eq, gate_map_range, ← loudness_eq]
  exact s.setLufs_results _ _

/-- R226: a measurement leaves in DMEM what storing its powers leaves. -/
theorem State.byteAt_measured (a : Nat) : (s.measured nch r).byteAt a =
    ((s.setKwFilters r ((s.channels nch).getD (nch - 1) [])).storePowers (s.argU 4) (s.blockPowers nch r)).byteAt a := by
  simp only [State.byteAt, measured_eq, State.storePowers_resets, State.setKwFilters_resets]

theorem State.memRead_measured {j : Nat} (hj : j < blockCount r (s.argU 2)) :
    (s.measured nch r).memRead (s.argU 4 + 8 * j) 8 = (powerOf r nch (s.weighted r) j).toNat := by
  rw [State.memRead_congr 8 fun i _ => s.byteAt_measured nch r _, blockPowers_eq,
    State.memRead_storePowers _ _ _ (by simpa using hj), List.getElem_map, List.getElem_range]

/-- R226: a stored power, as the datum that it is. -/
theorem State.power_measured {j : Nat} (hj : j < blockCount r (s.argU 2)) :
    BitVec.ofNat 64 ((s.measured nch r).memRead (s.argU 4 + 8 * j) 8) = powerOf r nch (s.weighted r) j := by
  rw [s.memRead_measured nch r hj, BitVec.ofNat_toNat, BitVec.setWidth_eq]

theorem State.byteAt_measured_outside {a : Nat} (ha : a < s.argU 4 ∨ s.argU 4 + 8 * blockCount r (s.argU 2) ≤ a) :
    (s.measured nch r).byteAt a = s.byteAt a := by
  rw [byteAt_measured, State.byteAt_storePowers_outside]
  · rfl
  · rwa [blockPowers_eq, List.length_map, List.length_range]

end

/-- R221: the results without channels, register by register. -/
theorem State.setLufsEmpty_results (s : State) :
    s.setLufsEmpty.res[0] = 0xFFF0000000000000 ∧ s.setLufsEmpty.res[1] = 0 ∧ s.setLufsEmpty.res[2] = 0 ∧
      s.setLufsEmpty.res[3] = 0 ∧ s.setLufsEmpty.res[4] = 0 ∧ s.setLufsEmpty.res[5] = 0 ∧
      s.setLufsEmpty.res[6] = s.res[6] ∧ s.setLufsEmpty.res[7] = s.res[7] := by
  simp [State.setLufsEmpty, pack64, infMag64]

/-- R221, R142: without channels only STATUS and RES change. -/
theorem State.finish_setLufsEmpty_eq (s : State) :
    s.setLufsEmpty.finish = { s with status := s.succeeded, res := s.setLufsEmpty.res } := by
  simp [State.setLufsEmpty, State.setRes, State.finish_eq_succeeded, State.succeeded]

/-- Settles O43: with no channels no operand is checked. -/
theorem lufsOfNoChannels : Obligations.LufsOfNoChannels :=
  fun s => ⟨_, rfl, s.finish_setLufsEmpty_eq, s.setLufsEmpty_results⟩

/-- R147 to R149: the operands that pass the checks of LUFS_MEASURE. -/
theorem lufsChecks_pass_of {base stride n bp nblk c : Nat} (halign : base % 4 = 0 ∧ stride % 4 = 0 ∧ bp % 8 = 0)
    (hchannels : ∀ k, k < c → n = 0 ∨ base + k * stride + 4 * n ≤ Config.dmemBytes)
    (hpowers : nblk = 0 ∨ bp + 8 * nblk ≤ Config.dmemBytes)
    (hclear : ∀ k, k < c → n = 0 ∨ nblk = 0 ∨ bp + 8 * nblk ≤ base + k * stride ∨ base + k * stride + 4 * n ≤ bp) :
    firstError (lufsChecks base stride n bp nblk c) = none := by
  rw [firstError_lufsChecks, if_neg (by omega), if_neg, if_neg]
  · rintro ⟨k, hk, hn, hnblk, hlt, hlt'⟩
    have := hclear k hk
    omega
  · rintro (⟨k, hk, hn, hlt⟩ | hlt)
    · have := hchannels k hk
      omega
    · omega

/-- Settles O44: the hypotheses are that the rate is supported and the checks pass. -/
theorem lufsResult : Obligations.LufsResult := by
  rintro nch s _ _ _ _ nblk r hsome hmany rfl rfl rfl rfl hhz hnblk hbase hstride hbp hrange hpowers hclear
  obtain rfl := blockCount_eq hnblk
  have hpass := lufsChecks_pass_of ⟨hbase, hstride, hbp⟩ hrange hpowers hclear
  obtain ⟨h0, h1, h2, h3, h4, h5, h6, h7⟩ := s.measured_results nch.toNat r
  exact ⟨_, execLufsMeasure_of_pass hmany hsome (rateOf_of_toNat hhz) hpass, s.measured_frame .., h0, h1, h2, h3, h4, h5, h6,
    h7, fun j hj => s.memRead_measured _ r hj, fun a ha => s.byteAt_measured_outside _ r ha⟩

end Sys2Proof.Machine
end

section
/-!
PROOF. A measurement of silence (43_lufs.md R235): what the filters, the squares and the gates make of zero samples, and a
gate that no power passes.
-/

namespace Sys2Proof.Machine

/-! ### Zeros through the filters -/

/-- The two zeros of `b64`. -/
theorem HasValue.eq_zero_or {x : B64} (h : HasValue x 0) : x = 0 ∨ x = 0x8000000000000000 := by
  have hmag : mag64 x = 0 := val64_eq_zero.1 h.2
  have hnat := toNat_eq_sign_mag64 x
  rw [hmag] at hnat
  cases hneg : neg64 x <;> rw [hneg] at hnat
  · exact .inl (BitVec.eq_of_toNat_eq hnat)
  · exact .inr (BitVec.eq_of_toNat_eq hnat)

theorem hasValue_negZero : HasValue 0x8000000000000000 0 := ⟨by unfold finite64; decide, val64_eq_zero.2 rfl⟩

/-- R19: a finite number times a zero. -/
theorem HasValue.fmul_zero {c x : B64} (hc : finite64 c) (hx : HasValue x 0) : HasValue (fmul c x) 0 := by
  have hround := roundsTo64_fmul hc hx.1
  rw [hx.2, mul_zero] at hround
  exact hasValue_zero.of_roundsTo64 hround

/-- R235: the sample is +0.0 or −0.0. -/
def ZeroSample (v : B32) : Prop := v = 0 ∨ v = 0x80000000

theorem ZeroSample.hasValue_widen {v : B32} (h : ZeroSample v) : HasValue (widen v) 0 := by
  have hpos : widen 0 = 0 := by decide +kernel
  have hneg : widen 0x80000000 = 0x8000000000000000 := by decide +kernel
  rcases h with rfl | rfl
  · exact hpos ▸ hasValue_zero
  · exact hneg ▸ hasValue_negZero

theorem HasValue.zeroSample_round32 {x : B64} (h : HasValue x 0) : ZeroSample (round32 x) := by
  rcases h.eq_zero_or with rfl | rfl
  · exact .inl rfl
  · exact .inr rfl

/-- The filter has finite coefficients and a state of zeros. -/
structure Biquad.Silent (f : Biquad) : Prop where
  b0 : finite64 f.b0
  b1 : finite64 f.b1
  b2 : finite64 f.b2
  a1 : finite64 f.a1
  a2 : finite64 f.a2
  x1 : HasValue f.x1 0
  x2 : HasValue f.x2 0
  y1 : HasValue f.y1 0
  y2 : HasValue f.y2 0

/-- R169: every term of the output is a zero. -/
theorem Biquad.Silent.output {f : Biquad} {x : B64} (hf : f.Silent) (hx : HasValue x 0) : HasValue (f.output x) 0 :=
  HasValue.fmul_zero hf.b0 hx |>.fadd_zero (.fmul_zero hf.b1 hf.x1) |>.fadd_zero (.fmul_zero hf.b2 hf.x2)
    |>.fsub_zero (.fmul_zero hf.a1 hf.y1) |>.fsub_zero (.fmul_zero hf.a2 hf.y2)

theorem Biquad.Silent.step {f : Biquad} {x : B64} (hf : f.Silent) (hx : HasValue x 0) : (df1 f x).2.Silent where
  b0 := hf.b0
  b1 := hf.b1
  b2 := hf.b2
  a1 := hf.a1
  a2 := hf.a2
  x1 := hx
  x2 := hf.x1
  y1 := hf.output hx
  y2 := hf.y1

theorem Biquad.Silent.after {f : Biquad} {x : Nat → B64} (hf : f.Silent) {n : Nat} (hx : ∀ i, i < n → HasValue (x i) 0) :
    (biquadAfter f x n).Silent := by
  induction n with
  | zero => exact hf
  | succ n ih => exact (ih fun i hi => hx i (by omega)).step (hx n n.lt_succ_self)

/-- R201: the coefficients of K-weighting are finite, and so is what stands in for one outside the table. -/
theorem finite64_kwPatterns (i : Nat) : finite64 (kwPatterns.getD i 0) := by
  have htable : (kwPatterns.all fun v => decide (mag64 v < infMag64)) = true := by decide +kernel
  by_cases hi : i < kwPatterns.length
  · rw [List.getD_eq_getElem _ _ hi]
    exact (finite64_iff _).2 (of_decide_eq_true (List.all_eq_true.1 htable _ (List.getElem_mem hi)))
  · rw [List.getD_eq_default _ _ (Nat.not_lt.1 hi)]
    exact hasValue_zero.1

/-- R203: a fresh K-weighting filter is silent. -/
theorem silent_freshKw (r : KwRate) (g : Nat) : (freshKw r g).Silent where
  b0 := finite64_kwPatterns _
  b1 := finite64_kwPatterns _
  b2 := finite64_kwPatterns _
  a1 := finite64_kwPatterns _
  a2 := finite64_kwPatterns _
  x1 := hasValue_zero
  x2 := hasValue_zero
  y1 := hasValue_zero
  y2 := hasValue_zero

/-- R183: zero samples through a silent filter, up to sample `i`. -/
theorem Biquad.Silent.zeroSample_output {f : Biquad} {x : Nat → B32} (hf : f.Silent) {i : Nat}
    (hx : ∀ j, j ≤ i → ZeroSample (x j)) : ZeroSample (round32 (biquadOutput f (fun j => widen (x j)) i)) :=
  ((hf.after fun j hj => (hx j hj.le).hasValue_widen).output (hx i le_rfl).hasValue_widen).zeroSample_round32

theorem zeroSample_kwOut (r : KwRate) {x : Nat → B32} {i : Nat} (hx : ∀ j, j ≤ i → ZeroSample (x j)) :
    ZeroSample (kwOut r x i) :=
  (silent_freshKw r 1).zeroSample_output fun _ hj =>
    (silent_freshKw r 0).zeroSample_output fun k hk => hx k (hk.trans hj)

/-! ### Zeros through the sums -/

theorem sumUpTo_eq_zero {n : Nat} {t : Nat → B64} (h : ∀ i, i < n → t i = 0) : sumUpTo n t = 0 := by
  induction n with
  | zero => rfl
  | succ n ih =>
    rw [sumUpTo_succ, ih fun i hi => h i (by omega), h n n.lt_succ_self]
    rfl

/-- R224: a zero sample adds +0.0. -/
theorem ZeroSample.square {v : B32} (h : ZeroSample v) : fmul (widen v) (widen v) = 0 := by
  rcases h with rfl | rfl <;> decide +kernel

theorem meanSquareFrom_of_zeros {r : KwRate} {start : Nat} {k : Nat → B32}
    (hk : ∀ i, i < lengthB r → ZeroSample (k (start + i))) : meanSquareFrom r start k = 0 := by
  rw [meanSquareFrom, sumUpTo_eq_zero fun i hi => (hk i hi).square]
  cases r <;> decide +kernel

theorem fmul_weightOf_zero (nch c : Nat) : fmul (weightOf nch c) 0 = 0 := by
  unfold weightOf
  split_ifs <;> decide +kernel

theorem powerOf_of_zeros {r : KwRate} {nch j n : Nat} {k : Nat → Nat → B32} (hj : j * hopH r + lengthB r ≤ n)
    (hk : ∀ c i, c < nch → i < n → ZeroSample (k c i)) : powerOf r nch k j = 0 :=
  sumUpTo_eq_zero fun c hc => by
    rw [meanSquareFrom_of_zeros fun i hi => hk c _ hc (by omega), fmul_weightOf_zero]

/-! ### A closed gate -/

/-- R26, R228: a power at or below T_ABS is not above it. -/
theorem flt_eq_false_of_fle {a b : B64} (h : fle a b = true) : flt b a = false := by
  simp only [fle, Bool.and_eq_true, decide_eq_true_eq] at h
  simp [flt, h.2]

theorem survivorsAbs_eq_nil {p : Nat → B64} {nblk : Nat} (h : ∀ j, j < nblk → fle (p j) 0x3E7F791EC6E1D5B7 = true) :
    survivorsAbs p nblk = [] :=
  List.filter_eq_nil_iff.2 fun j hj => Bool.eq_false_iff.1 (flt_eq_false_of_fle (h j (List.mem_range.1 hj)))

/-- R228 to R231, R234: with no power above T_ABS both gates are empty. -/
theorem State.measured_quiet {s : State} {nch : Nat} {r : KwRate}
    (h : ∀ j, j < blockCount r (s.argU 2) → fle (powerOf r nch (s.weighted r) j) 0x3E7F791EC6E1D5B7 = true) :
    (s.measured nch r).res[0] = 0xFFF0000000000000 ∧ (s.measured nch r).res[1] = 0 ∧ (s.measured nch r).res[3] = 0 ∧
      (s.measured nch r).res[4] = 0 ∧ (s.measured nch r).res[5] = 0 := by
  obtain ⟨h0, h1, -, h3, h4, h5, -, -⟩ := s.measured_results nch r
  have hzero : feq 0 0 = true := by decide
  rw [survivorsAbs_eq_nil h] at h0 h1 h3 h4 h5
  exact ⟨h0.trans (if_pos hzero), h1, h3, h4, h5⟩

/-- R235: zero samples in every channel give blocks of power +0.0. -/
theorem State.power_of_zeros {s : State} {nch : Nat} {r : KwRate}
    (hzeros : ∀ c i, c < nch → i < s.argU 2 → ZeroSample (s.loadS (s.argU 0 + c * s.argU 1 + 4 * i)))
    {j : Nat} (hj : j < blockCount r (s.argU 2)) : powerOf r nch (s.weighted r) j = 0 :=
  powerOf_of_zeros ((lt_blockCount_iff r _ j).1 hj) fun c _ hc hi =>
    zeroSample_kwOut r fun k hk => hzeros c k hc (hk.trans_lt hi)

/-- R226: without a block nothing is stored. -/
theorem State.measured_dmem_of_no_block {s : State} {nch : Nat} {r : KwRate} (h : blockCount r (s.argU 2) = 0) :
    (s.measured nch r).dmem = s.dmem := by
  rw [measured_eq, blockPowers_eq, h]
  rfl

/-- Settles O46: a short measurement has no block and one of zeros has powers +0.0, so all three cases are quiet. -/
theorem lufsOfSilence : Obligations.LufsOfSilence := by
  rintro nch s t _ _ _ _ nblk r rfl rfl rfl rfl hsome hhz hnblk hexec hcode short zeros quiet
  obtain rfl := blockCount_eq hnblk
  obtain ⟨r', hrate, rfl⟩ := execLufsMeasure_of_success hsome hexec hcode
  obtain rfl : r' = r := Option.some.inj (hrate.symm.trans (rateOf_of_toNat hhz))
  obtain ⟨-, -, hres2, -⟩ := s.measured_results nch.toNat r'
  have hshort : short → blockCount r' (s.argU 2) = 0 := blockCount_eq_zero
  have hpower : zeros → ∀ j, j < blockCount r' (s.argU 2) → powerOf r' nch.toNat (s.weighted r') j = 0 :=
    fun h j hj => s.power_of_zeros h hj
  refine ⟨hres2, fun h => ⟨State.measured_dmem_of_no_block (hshort h), ?_⟩, fun h j hj => ?_,
    fun h => State.measured_quiet ?_⟩
  · rw [hres2, hshort h]
    rfl
  · exact (s.memRead_measured _ _ hj).trans (congrArg BitVec.toNat (hpower h j hj))
  · rcases h with h | h | h
    · rw [hshort h]
      exact fun j hj => absurd hj j.not_lt_zero
    · exact fun j hj => by rw [hpower h j hj]; decide
    · exact fun j hj => s.power_measured nch.toNat r' hj ▸ h j hj

end Sys2Proof.Machine
end

section
/-!
PROOF. A measurement of one channel, and of two equal ones (43_lufs.md R236, R237): the weight 1.0 and the sum from +0.0 change
nothing in a mean square.
-/

namespace Sys2Proof.Machine

/-! ### Arithmetic without a sign -/

section
variable {a b : B64}

theorem neg64_nan64 : neg64 nan64 = false := rfl

/-- R19: a sum of data without a sign bit has none, the canonical NaN included. -/
theorem neg64_fadd (ha : neg64 a = false) (hb : neg64 b = false) : neg64 (fadd a b) = false := by
  have hunits : ¬ signedUnits64 a + signedUnits64 b < 0 := by
    rw [signedUnits64, signedUnits64, ha, hb, if_neg Bool.false_ne_true, if_neg Bool.false_ne_true]
    omega
  unfold fadd
  dsimp only
  split_ifs
  · exact neg64_nan64
  · exact neg64_nan64
  · exact ha
  · exact hb
  · rw [ha, neg64_pack64 _ (by norm_num)]; rfl
  · rw [neg64_round64, decide_eq_false hunits]

theorem neg64_fmul_self (a : B64) : neg64 (fmul a a) = false := by
  unfold fmul
  simp only [bne_self_eq_false]
  split_ifs
  · exact neg64_nan64
  · exact neg64_nan64
  · rfl
  · exact neg64_round64 ..

theorem neg64_fdiv (ha : neg64 a = false) (hb : neg64 b = false) : neg64 (fdiv a b) = false := by
  unfold fdiv
  simp only [ha, hb, bne_self_eq_false]
  split_ifs
  · exact neg64_nan64
  · exact neg64_nan64
  · rfl
  · rfl
  · exact neg64_nan64
  · rfl
  · exact neg64_round64 ..

end

theorem neg64_fsum {ts : List B64} (h : ∀ x ∈ ts, neg64 x = false) : neg64 (fsum ts) = false :=
  List.foldlRecOn (motive := fun x => neg64 x = false) ts fadd rfl fun _ hacc x hx => neg64_fadd hacc (h x hx)

/-- A datum is the canonical NaN, an infinity, or finite. -/
theorem CanonicalNaN.cases {x : B64} (h : CanonicalNaN x) : x = nan64 ∨ x = inf64 (neg64 x) ∨ finite64 x := by
  by_cases hnan : nanPattern64 x
  · exact .inl (h ((isNaN64_iff x).2 hnan))
  · by_cases hx : finite64 x
    · exact .inr (.inr hx)
    · exact .inr (.inl (eq_inf64 hnan hx))

/-- R207: the weight 1.0 changes no datum but a NaN that is not canonical. -/
theorem one_fmul {x : B64} (h : CanonicalNaN x) : fmul 0x3FF0000000000000 x = x := by
  rcases h.cases with rfl | hinf | hx
  · rfl
  · rw [hinf]
    cases neg64 x <;> rfl
  · refine eq_of_neg64_of_val64 ?_ (HasValue.of_finite hx).one_fmul.2
    rw [fmul_of_finite hasValue_one.1 hx, neg64_round64]
    exact Bool.false_xor _

/-- R20: a sum that starts with a datum without a sign. -/
theorem zero_fadd {x : B64} (h : CanonicalNaN x) (hneg : neg64 x = false) : fadd 0 x = x := by
  rcases h.cases with rfl | hinf | hx
  · rfl
  · rw [hinf, hneg]
    rfl
  · have hround := roundsTo64_fadd hasValue_zero.1 hx
    rw [hasValue_zero.2, zero_add] at hround
    exact eq_of_neg64_of_val64 ((neg64_fadd rfl hneg).trans hneg.symm) (hround.eq_of_exact hx).2

/-! ### One channel and two -/

/-- R224: a mean square has no sign. -/
theorem neg64_meanSquare (r : KwRate) (j : Nat) (k : List B32) : neg64 (meanSquare r j k) = false := by
  refine neg64_fdiv (neg64_fsum fun x hx => ?_) ?_
  · obtain ⟨v, -, rfl⟩ := List.mem_map.1 hx
    exact neg64_fmul_self _
  · rw [natToB64_blockLength]
    cases r <;> rfl

theorem blockPower_one (r : KwRate) (k : List B32) (j : Nat) : blockPower r [k] j = meanSquare r j k := by
  have hms : CanonicalNaN (meanSquare r j k) := canonicalNaN_fdiv _ _
  have hpower : blockPower r [k] j = fadd 0 (fmul 0x3FF0000000000000 (meanSquare r j k)) := rfl
  rw [hpower, one_fmul hms, zero_fadd hms (neg64_meanSquare r j k)]

/-- R236: the power of two equal channels. -/
theorem blockPower_two (r : KwRate) (k : List B32) (j : Nat) :
    blockPower r [k, k] j = fadd (meanSquare r j k) (meanSquare r j k) := by
  have hms : CanonicalNaN (meanSquare r j k) := canonicalNaN_fdiv _ _
  have hpower : blockPower r [k, k] j = fadd (fadd 0 (fmul 0x3FF0000000000000 (meanSquare r j k)))
    (fmul 0x3FF0000000000000 (meanSquare r j k)) := rfl
  rw [hpower, one_fmul hms, zero_fadd hms (neg64_meanSquare r j k)]

section
variable {r : KwRate} {n j : Nat} (k : Nat → Nat → B32)

theorem powerOf_one (hj : j < blockCount r n) : powerOf r 1 k j = meanSquareFrom r (j * hopH r) (k 0) := by
  rw [← blockPower_map_range 1 k hj, ← meanSquare_map_range (k 0) hj]
  exact blockPower_one r _ j

theorem powerOf_two (hk : k 1 = k 0) (hj : j < blockCount r n) :
    powerOf r 2 k j = fadd (powerOf r 1 k j) (powerOf r 1 k j) := by
  rw [powerOf_one k hj, ← blockPower_map_range 2 k hj, ← meanSquare_map_range (k 0) hj, ← blockPower_two]
  simp [List.range_succ, hk]

end

/-! ### The samples that KW_APPLY stores -/

theorem meanSquareFrom_congr {r : KwRate} {start : Nat} {k l : Nat → B32}
    (h : ∀ i, i < lengthB r → k (start + i) = l (start + i)) : meanSquareFrom r start k = meanSquareFrom r start l := by
  rw [meanSquareFrom, meanSquareFrom, sumUpTo_congr fun i hi => by rw [h i hi]]

/-- R142: KW_APPLY ends with ERRCODE 0x00 only when it filtered the buffer, at the rate of its operand. -/
theorem execKwApply_of_success_of_rate {s t : State} {r : KwRate} (hrate : rateOf (s.argU 3) = some r)
    (hexec : execKwApply s = .next t) (hcode : t.status.errcode = 0x00) :
    t = s.kWeighted r (s.argU 0) (s.argU 1) (s.argU 2) := by
  rcases execKwApply_cases s with ⟨hnone, -⟩ | ⟨-, -, ⟨e, -, he⟩ | ⟨hpass, -⟩⟩
  · rw [hrate] at hnone
    cases hnone
  · exact absurd he (ne_raise_of_success hexec hcode _)
  · exact Host.Outcome.next.inj (hexec.symm.trans (execKwApply_of_pass hrate hpass))

/-- Settles O47: both commands K-weight the same samples. -/
theorem lufsPowerMatchesKwApply : Obligations.LufsPowerMatchesKwApply := by
  rintro s t u _ _ _ r largs rfl rfl rfl hhz hbase hn hhz' hkw hkwcode hlufs hlufscode j hj
  have hrate : rateOf (s.argU 3) = some r := rateOf_of_toNat hhz
  obtain rfl := execKwApply_of_success_of_rate hrate hkw hkwcode
  obtain ⟨r', hrate', rfl⟩ := execLufsMeasure_of_success (nch := 1) (s := { s with argl := largs }) (by decide) hlufs
    hlufscode
  have hlatch : rateOf largs[3].toNat = some r' := hrate'
  obtain rfl : r' = r := Option.some.inj (hlatch.symm.trans (hhz' ▸ hrate))
  have hblock : j < blockCount r' largs[2].toNat := (lt_blockCount_iff r' _ j).2 (hn ▸ hj)
  refine (State.memRead_measured { s with argl := largs } 1 r' hblock).trans (congrArg BitVec.toNat ?_)
  rw [powerOf_one _ hblock]
  refine meanSquareFrom_congr fun i hi => ?_
  have hchannel : State.weighted { s with argl := largs } r' 0 = kwOut r' fun i => s.loadS (s.argU 0 + 4 * i) := by
    simp only [State.weighted, Nat.zero_mul, Nat.add_zero]
    exact congrArg (fun v : B64 => kwOut r' fun i => s.loadS (v.toNat + 4 * i)) hbase
  rw [hchannel]
  exact (s.loadS_kWeighted r' (s.argU 0) (s.argU 1) (s.argU 2) (lt_of_lt_of_le (by omega) hj)).symm

end Sys2Proof.Machine
end

section
/-!
PROOF. The duplicate-channel law (43_lufs.md R236): rounding commutes with doubling for whole units and in the normal range, so
sums of doubled powers, and their mean, are doubled.
-/

namespace Sys2Proof.Machine

/-! ### Rounding and doubling -/

/-- The quotient `n / m` rounded to a whole number, to nearest with ties to even: the significand of `roundUnits`. -/
def nearestQuotient (m n : ℕ) : ℕ :=
  if m < 2 * (n % m) || (2 * (n % m) == m && n / m % 2 == 1) then n / m + 1 else n / m

/-- R19: `roundUnits` by its exponent steps and its significand. -/
theorem roundUnits_eq_nearestQuotient (frac inf n d : ℕ) :
    roundUnits frac inf n d =
      if ((n / d).log2 - frac) * 2 ^ frac + nearestQuotient (d * 2 ^ ((n / d).log2 - frac)) n < inf
      then ((n / d).log2 - frac) * 2 ^ frac + nearestQuotient (d * 2 ^ ((n / d).log2 - frac)) n else inf := by
  simp only [roundUnits, nearestQuotient, Nat.shiftLeft_eq]
  rfl

theorem nearestQuotient_one (n : ℕ) : nearestQuotient 1 n = n := by
  simp [nearestQuotient, Nat.mod_one]

theorem nearestQuotient_two_mul (m n : ℕ) : nearestQuotient (2 * m) (2 * n) = nearestQuotient m n := by
  have hlt : 2 * m < 2 * (2 * (n % m)) ↔ m < 2 * (n % m) := by omega
  have heq : 2 * (2 * (n % m)) = 2 * m ↔ 2 * (n % m) = m := by omega
  simp only [nearestQuotient, Nat.mul_mod_mul_left, Nat.mul_div_mul_left n m two_pos, Bool.or_eq_true, decide_eq_true_eq,
    Bool.and_eq_true, beq_iff_eq, hlt, heq]

theorem nearestQuotient_bounds (m n : ℕ) : n / m ≤ nearestQuotient m n ∧ nearestQuotient m n ≤ n / m + 1 := by
  unfold nearestQuotient
  split <;> omega

/-- A whole number of units that fits the significand is its own pattern. -/
theorem roundUnits_of_lt {frac inf n : ℕ} (hn : n < 2 ^ (frac + 1)) (hinf : n < inf) : roundUnits frac inf n 1 = n := by
  have hlog : n.log2 - frac = 0 := by
    obtain rfl | h0 := eq_or_ne n 0
    · simp
    · have := (Nat.log2_lt h0).2 hn
      omega
  rw [roundUnits_eq_nearestQuotient, Nat.div_one, hlog, pow_zero, mul_one, nearestQuotient_one, zero_mul, zero_add,
    if_pos hinf]

theorem log2_two_mul_div {n d : ℕ} (h : 0 < n / d) : (2 * n / d).log2 = (n / d).log2 + 1 := by
  have hhalf : 2 * n / d / 2 = n / d := by
    rw [Nat.div_div_eq_div_mul, Nat.mul_comm d, Nat.mul_div_mul_left n d two_pos]
  rw [Nat.log2_def, if_pos (by omega), hhalf]

/-- R19: in the normal range the pattern of twice a number is one exponent above the pattern of the number. -/
theorem roundUnits_two_mul {frac n d : ℕ} (inf : ℕ) (hd : 0 < d) (hn : 2 ^ frac * d ≤ n) :
    ∃ t q, 2 ^ frac ≤ q ∧ q ≤ 2 ^ (frac + 1) ∧
      (roundUnits frac inf n d = if t * 2 ^ frac + q < inf then t * 2 ^ frac + q else inf) ∧
      roundUnits frac inf (2 * n) d = if (t + 1) * 2 ^ frac + q < inf then (t + 1) * 2 ^ frac + q else inf := by
  have hdiv : 2 ^ frac ≤ n / d := (Nat.le_div_iff_mul_le hd).2 hn
  have hne : n / d ≠ 0 := (lt_of_lt_of_le (by positivity) hdiv).ne'
  have hlog : (2 * n / d).log2 - frac = (n / d).log2 - frac + 1 := by
    have := (Nat.le_log2 hne).2 hdiv
    rw [log2_two_mul_div (Nat.pos_of_ne_zero hne)]
    omega
  obtain ⟨hnormal, hq⟩ := truncated_significand frac n d
  obtain ⟨hlo, hhi⟩ := nearestQuotient_bounds (d * 2 ^ ((n / d).log2 - frac)) n
  refine ⟨(n / d).log2 - frac, nearestQuotient (d * 2 ^ ((n / d).log2 - frac)) n, ?_, by omega,
    roundUnits_eq_nearestQuotient .., ?_⟩
  · refine le_trans ?_ hlo
    rcases hnormal with h0 | hnormal
    · rwa [h0, pow_zero, mul_one]
    · exact hnormal
  · rw [roundUnits_eq_nearestQuotient, hlog, pow_succ', mul_left_comm d, nearestQuotient_two_mul]

/-- R236: a doubled number is rounded to the double, for whole units and in the normal range, unless it overflows. -/
theorem units_roundUnits_two_mul {n d : ℕ} (hd : 0 < d) (hn : d = 1 ∨ 2 ^ 52 * d ≤ n)
    (hfinite : roundUnits 52 infMag64 (2 * n) d < infMag64) :
    roundUnits 52 infMag64 n d < infMag64 ∧
      unitsOf 52 (roundUnits 52 infMag64 (2 * n) d) = 2 * unitsOf 52 (roundUnits 52 infMag64 n d) := by
  obtain hsmall | hnormal : d = 1 ∧ n < 2 ^ 52 ∨ 2 ^ 52 * d ≤ n := by omega
  · obtain ⟨rfl, hlt⟩ := hsmall
    have hinf : infMag64 = 2047 * 2 ^ 52 := by norm_num [infMag64]
    have hdouble : unitsOf 52 (0 * 2 ^ 52 + 2 * n) = 2 * n * 2 ^ 0 := unitsOf_exponent_significand (.inl rfl) (by omega)
    have hsingle : unitsOf 52 (0 * 2 ^ 52 + n) = n * 2 ^ 0 := unitsOf_exponent_significand (.inl rfl) (by omega)
    simp only [zero_mul, zero_add, pow_zero, mul_one] at hdouble hsingle
    rw [roundUnits_of_lt (by omega) (by omega), roundUnits_of_lt (by omega) (by omega), hdouble, hsingle]
    exact ⟨by omega, rfl⟩
  · obtain ⟨t, q, hlo, hhi, hsingle, hdouble⟩ := roundUnits_two_mul infMag64 hd hnormal
    have hlt : (t + 1) * 2 ^ 52 + q < infMag64 := by
      by_contra hge
      rw [hdouble, if_neg hge] at hfinite
      exact lt_irrefl _ hfinite
    have hlt' : t * 2 ^ 52 + q < infMag64 :=
      (Nat.add_le_add_right (Nat.mul_le_mul_right _ t.le_succ) q).trans_lt hlt
    rw [hsingle, hdouble, if_pos hlt, if_pos hlt', unitsOf_exponent_significand (.inr hlo) hhi,
      unitsOf_exponent_significand (.inr hlo) hhi]
    exact ⟨hlt', by ring⟩

/-! ### Doubled data -/

section
variable {a b : B64}

theorem mag64_round64 (s : Bool) (n d : ℕ) : mag64 (round64 s n d) = roundUnits 52 infMag64 n d :=
  mag64_pack64 s ((roundUnits_le_inf ..).trans_lt (by norm_num [infMag64]))

theorem val64_of_not_neg (h : neg64 a = false) : val64 a = units64 a * unit64 := by
  rw [val64_eq, h, signFactor_false, one_mul]

theorem val64_nonneg (h : neg64 a = false) : 0 ≤ val64 a := by
  rw [val64_of_not_neg h]
  exact mul_nonneg (Nat.cast_nonneg _) unit64_pos.le

/-- R19: a sum of data without a sign rounds the sum of their units. -/
theorem fadd_of_not_neg (ha : finite64 a) (hb : finite64 b) (hna : neg64 a = false) (hnb : neg64 b = false) :
    fadd a b = round64 false (units64 a + units64 b) 1 := by
  have hz : signedUnits64 a + signedUnits64 b = (units64 a + units64 b : ℕ) := by
    rw [signedUnits64, signedUnits64, hna, hnb, if_neg Bool.false_ne_true, if_neg Bool.false_ne_true, Nat.cast_add]
  have hnonneg : ¬ val64 a + val64 b < 0 := (add_nonneg (val64_nonneg hna) (val64_nonneg hnb)).not_gt
  rw [fadd_of_finite ha hb, hz, Int.natAbs_natCast, decide_eq_false hnonneg, hna, hnb]
  split
  case isTrue h =>
    rw [val64_add, hz, mul_eq_zero, or_iff_left unit64_pos.ne', Int.cast_natCast, Nat.cast_eq_zero] at h
    rw [h, round64_zero]
    rfl
  case isFalse => rfl

theorem round64_units64 (ha : finite64 a) (hna : neg64 a = false) : round64 false (units64 a) 1 = a := by
  have h := zero_fadd (.of_not_nan (isNaN64_of_finite64 ha)) hna
  rw [fadd_of_not_neg hasValue_zero.1 ha rfl hna] at h
  rwa [show units64 0 = 0 from rfl, zero_add] at h

theorem finite64_iff_special (v : B64) : finite64 v ↔ isNaN64 v = false ∧ isInf64 v = false := by
  rw [finite64_iff, isNaN64, isInf64, decide_eq_false_iff_not, decide_eq_false_iff_not]
  omega

theorem not_finite64_nan64 : ¬ finite64 nan64 := by unfold finite64; decide

/-- R19: no operand of a finite sum is a NaN or an infinity. -/
theorem finite64_of_fadd (h : finite64 (fadd a b)) : finite64 a ∧ finite64 b := by
  unfold fadd at h
  dsimp only at h
  split_ifs at h with hnan ha
  · exact absurd h not_finite64_nan64
  · exact absurd h not_finite64_nan64
  · simp [finite64_iff_special, ha] at h
  · next hb => simp [finite64_iff_special, hb] at h
  all_goals simp_all [finite64_iff_special]

/-- R19: the dividend of a finite quotient by a finite number is finite. -/
theorem finite64_of_fdiv (hb : finite64 b) (h : finite64 (fdiv a b)) : finite64 a := by
  unfold fdiv at h
  split_ifs at h with hnan ha
  · exact absurd h not_finite64_nan64
  · exact absurd h not_finite64_nan64
  · rw [← inf64_eq_pack64, finite64_iff, mag64_inf64] at h
    exact absurd h (lt_irrefl _)
  all_goals simp_all [finite64_iff_special]

/-- `b` is twice `a`, both finite and without a sign. -/
structure Doubles (a b : B64) : Prop where
  finite : finite64 a
  finite' : finite64 b
  neg : neg64 a = false
  neg' : neg64 b = false
  units : units64 b = 2 * units64 a

/-- R236: rounding a doubled number, where it commutes with doubling. -/
theorem Doubles.of_round64 {n d : ℕ} (hd : 0 < d) (hn : d = 1 ∨ 2 ^ 52 * d ≤ n) (h : finite64 (round64 false (2 * n) d)) :
    Doubles (round64 false n d) (round64 false (2 * n) d) := by
  have hfinite := (finite64_iff _).1 h
  rw [mag64_round64] at hfinite
  obtain ⟨hlt, hunits⟩ := units_roundUnits_two_mul hd hn hfinite
  refine ⟨(finite64_iff _).2 ?_, h, neg64_round64 .., neg64_round64 .., ?_⟩
  · rwa [mag64_round64]
  · rwa [units64, units64, mag64_round64, mag64_round64]

/-- R236: doubling is exact in `b64` without overflow. -/
theorem Doubles.self (ha : finite64 a) (hna : neg64 a = false) (h : finite64 (fadd a a)) : Doubles a (fadd a a) := by
  have hsum := fadd_of_not_neg ha ha hna hna
  rw [← two_mul] at hsum
  rw [hsum] at h ⊢
  simpa only [round64_units64 ha hna] using Doubles.of_round64 one_pos (.inl rfl) h

theorem Doubles.eq_fadd (h : Doubles a b) : b = fadd a a := by
  rw [fadd_of_not_neg h.finite h.finite h.neg h.neg, ← two_mul, ← h.units, round64_units64 h.finite' h.neg']

theorem Doubles.add {c d : B64} (hab : Doubles a b) (hcd : Doubles c d) (h : finite64 (fadd b d)) :
    Doubles (fadd a c) (fadd b d) := by
  have hsum := fadd_of_not_neg hab.finite' hcd.finite' hab.neg' hcd.neg'
  rw [hab.units, hcd.units, ← mul_add] at hsum
  rw [hsum] at h ⊢
  rw [fadd_of_not_neg hab.finite hcd.finite hab.neg hcd.neg]
  exact .of_round64 one_pos (.inl rfl) h

/-- R236: a quotient in the normal range is doubled with its dividend. -/
theorem Doubles.div {c : B64} (hab : Doubles a b) (hc : finite64 c) (hnc : neg64 c = false) (hpos : 0 < units64 c)
    (hnormal : 2 ^ 52 * units64 c ≤ units64 a <<< 1074) (h : finite64 (fdiv b c)) :
    Doubles (fdiv a c) (fdiv b c) := by
  have hne : val64 c ≠ 0 := fun h0 => hpos.ne' (units64_eq_zero.2 (val64_eq_zero.1 h0))
  have hquot := fdiv_of_finite hab.finite' hc
  have hshift : (2 * units64 a) <<< 1074 = 2 * units64 a <<< 1074 := by
    rw [shiftLeft_eq_mul_two_pow, shiftLeft_eq_mul_two_pow, mul_assoc]
  rw [if_neg hne, hab.neg', hnc, hab.units, hshift] at hquot
  rw [hquot] at h ⊢
  rw [fdiv_of_finite hab.finite hc, if_neg hne, hab.neg, hnc]
  exact .of_round64 hpos (.inr hnormal) h

end

end Sys2Proof.Machine
end

section
/-!
PROOF. Doubled powers through the sum, the mean and the dual gate, and the two measurements of one channel (43_lufs.md R228 to
R231, R236).
-/

namespace Sys2Proof.Machine

/-! ### Sums of doubled powers -/

theorem finite64_of_foldl_fadd {ps : List B64} : ∀ {acc : B64}, finite64 (ps.foldl fadd acc) → finite64 acc := by
  induction ps with
  | nil => exact id
  | cons p ps ih => exact fun h => (finite64_of_fadd (ih h)).1

/-- R236: a finite sum of doubled powers is twice the sum of the powers. -/
theorem Doubles.foldl_add {ps : List B64} (hps : ∀ p ∈ ps, finite64 p ∧ neg64 p = false) :
    ∀ {acc acc' : B64}, Doubles acc acc' → finite64 ((ps.map fun p => fadd p p).foldl fadd acc') →
    Doubles (ps.foldl fadd acc) ((ps.map fun p => fadd p p).foldl fadd acc') := by
  induction ps with
  | nil => exact fun h _ => h
  | cons p ps ih =>
    intro acc acc' hacc h
    obtain ⟨⟨hp, hneg⟩, hps⟩ := List.forall_mem_cons.1 hps
    rw [List.map_cons, List.foldl_cons] at h ⊢
    rw [List.foldl_cons]
    have hnext := finite64_of_foldl_fadd h
    obtain ⟨-, hdouble⟩ := finite64_of_fadd hnext
    exact ih hps (hacc.add (.self hp hneg hdouble) hnext) h

theorem Doubles.sum {ps : List B64} (hps : ∀ p ∈ ps, finite64 p ∧ neg64 p = false)
    (h : finite64 (fsum (ps.map fun p => fadd p p))) :
    Doubles (fsum ps) (fsum (ps.map fun p => fadd p p)) :=
  Doubles.foldl_add hps ⟨hasValue_zero.1, hasValue_zero.1, rfl, rfl, rfl⟩ h

/-- R19: a finite sum is at least as great as a term, when the other one is not negative. -/
theorem val64_le_fadd {a b : B64} (ha : 0 ≤ val64 a) (h : finite64 (fadd a b)) : val64 b ≤ val64 (fadd a b) := by
  obtain ⟨hfa, hfb⟩ := finite64_of_fadd h
  have hround := roundsTo64_fadd hfa hfb
  rw [roundsTo64] at hround
  split at hround
  case isTrue =>
    obtain ⟨-, hnear, -⟩ := hround
    have hle := hnear b hfb
    rw [add_sub_cancel_right, abs_of_nonneg ha] at hle
    linarith [le_abs_self (val64 a + val64 b - val64 (fadd a b))]
  case isFalse =>
    rw [hround] at h
    exact absurd h (by split <;> unfold finite64 <;> decide)

/-- A sum of powers above a bound is above it. -/
theorem lt_val64_fsum {ps : List B64} (hne : ps ≠ []) {q : ℚ} (hps : ∀ p ∈ ps, q < val64 p ∧ neg64 p = false)
    (h : finite64 (fsum ps)) : q < val64 (fsum ps) := by
  obtain rfl | ⟨init, last, rfl⟩ := List.eq_nil_or_concat' ps
  · exact absurd rfl hne
  · have hsum : fsum (init ++ [last]) = fadd (fsum init) last := by simp [fsum]
    rw [hsum] at h ⊢
    have hinit := val64_nonneg (neg64_fsum fun p hp => (hps p (List.mem_append_left _ hp)).2)
    exact (hps last (by simp)).1.trans_le (val64_le_fadd hinit h)

/-! ### The mean -/

/-- R154: a count of up to `2^53` is converted exactly. -/
theorem units64_natToB64 {n : ℕ} (h0 : 0 < n) (hn : n ≤ 2 ^ 53) :
    finite64 (natToB64 n) ∧ units64 (natToB64 n) = n <<< 1074 := by
  obtain hlt | rfl := hn.lt_or_eq
  · obtain ⟨hfinite, hval⟩ := natToB64_exact hlt
    have hunits := units64_eq_val64_mul (x := natToB64 n) (hval ▸ Nat.cast_pos.2 h0)
    rw [hval] at hunits
    exact ⟨hfinite, Nat.cast_injective (hunits.trans (cast_shiftLeft n 1074).symm)⟩
  · unfold finite64
    decide +kernel

/-- R228: T_ABS is far above the subnormal range. -/
theorem two_pow_le_units64_cTabs : 2 ^ 105 ≤ units64 cTabs := by decide +kernel

/-- R228, R231, R236: the mean of powers above T_ABS doubles with them. -/
theorem Doubles.mean {ps : List B64} (hne : ps ≠ []) (hlen : ps.length ≤ 2 ^ 53)
    (hps : ∀ p ∈ ps, finite64 p ∧ val64 cTabs < val64 p)
    (h : finite64 (meanPower (ps.map fun p => fadd p p))) :
    Doubles (meanPower ps) (meanPower (ps.map fun p => fadd p p)) := by
  have hlen0 : ps.length ≠ 0 := fun h0 => hne (List.length_eq_zero_iff.1 h0)
  obtain ⟨hcount, hcountunits⟩ := units64_natToB64 (Nat.pos_of_ne_zero hlen0) hlen
  rw [shiftLeft_eq_mul_two_pow] at hcountunits
  have hcountpos : 0 < units64 (natToB64 ps.length) :=
    hcountunits ▸ Nat.mul_pos (Nat.pos_of_ne_zero hlen0) (pow_pos two_pos _)
  have hcTabs : 0 ≤ val64 cTabs := val64_nonneg rfl
  have hpos : ∀ p ∈ ps, finite64 p ∧ neg64 p = false := fun p hp =>
    ⟨(hps p hp).1, neg64_of_val64_pos (hcTabs.trans_lt (hps p hp).2)⟩
  simp only [meanPower, List.length_map, if_neg hlen0] at h ⊢
  have hsum := Doubles.sum hpos (finite64_of_fdiv hcount h)
  refine hsum.div hcount (neg64_round64 ..) hcountpos ?_ h
  have hlarge : units64 cTabs < units64 (fsum ps) := by
    have hlt := lt_val64_fsum hne (fun p hp => ⟨(hps p hp).2, (hpos p hp).2⟩) hsum.finite
    rw [val64_of_not_neg rfl, val64_of_not_neg hsum.neg, mul_lt_mul_iff_left₀ unit64_pos] at hlt
    exact_mod_cast hlt
  rw [hcountunits, shiftLeft_eq_mul_two_pow, ← mul_assoc]
  refine Nat.mul_le_mul_right _ ?_
  calc 2 ^ 52 * ps.length ≤ 2 ^ 52 * 2 ^ 53 := Nat.mul_le_mul_left _ hlen
    _ ≤ units64 cTabs := two_pow_le_units64_cTabs
    _ ≤ units64 (fsum ps) := hlarge.le

/-! ### The gate -/

/-- R228 to R231: where every power passes both gates, the gated mean square is their mean. -/
theorem gate_of_all_pass {ps : List B64} (h : (gate ps).nrel = ps.length) :
    (gate ps).g = meanPower ps ∧ ∀ p ∈ ps, fgt p cTabs = true := by
  have hle : (relativeGate (absoluteGate ps)).length ≤ (absoluteGate ps).length := List.length_filter_le ..
  have hle' : (absoluteGate ps).length ≤ ps.length := List.length_filter_le ..
  have hlen : (relativeGate (absoluteGate ps)).length = ps.length := h
  have habslen : (absoluteGate ps).length = ps.length := by omega
  have habs : absoluteGate ps = ps := List.filter_sublist.eq_of_length habslen
  have hrel : relativeGate (absoluteGate ps) = absoluteGate ps :=
    List.filter_sublist.eq_of_length (hlen.trans habslen.symm)
  refine ⟨?_, List.filter_eq_self.1 habs⟩
  rw [gate, hrel, habs]

/-- R236: the gated mean square of doubled powers. -/
theorem gate_double {ps : List B64} (hne : ps ≠ []) (hlen : ps.length ≤ 2 ^ 53) (hfinite : ∀ p ∈ ps, finite64 p)
    (hall : (gate ps).nrel = ps.length) (hall' : (gate (ps.map fun p => fadd p p)).nrel = ps.length)
    (h : finite64 (gate (ps.map fun p => fadd p p)).g) :
    (gate (ps.map fun p => fadd p p)).g = fadd (gate ps).g (gate ps).g := by
  obtain ⟨hg, hpass⟩ := gate_of_all_pass hall
  obtain ⟨hg', -⟩ := gate_of_all_pass (hall'.trans (List.length_map _).symm)
  rw [hg'] at h ⊢
  rw [hg]
  refine (Doubles.mean hne hlen (fun p hp => ⟨hfinite p hp, ?_⟩) h).eq_fadd
  have hgt := hpass p hp
  simp only [fgt, flt, Bool.and_eq_true, decide_eq_true_eq] at hgt
  exact (order64_lt_iff _ _).1 hgt.2

/-! ### Two measurements -/

theorem blockCount_le (r : KwRate) (n : ℕ) : blockCount r n ≤ n := by
  by_contra! h
  have := (lt_blockCount_iff r n n).1 h
  cases r <;> simp only [hopH, lengthB] at this <;> omega

theorem State.blockCount_lt (s : State) (r : KwRate) : blockCount r (s.argU 2) < 2 ^ 64 :=
  (blockCount_le _ _).trans_lt s.argl[2].isLt

/-- Counts in a register are equal when the registers are. -/
theorem ofNat64_inj {m n : ℕ} (hm : m < 2 ^ 64) (hn : n < 2 ^ 64) (h : BitVec.ofNat 64 m = BitVec.ofNat 64 n) : m = n := by
  have := congrArg BitVec.toNat h
  rwa [BitVec.toNat_ofNat, BitVec.toNat_ofNat, Nat.mod_eq_of_lt hm, Nat.mod_eq_of_lt hn] at this

/-- R236: with stride 0 the two channels of a stereo measurement are the mono channel. -/
theorem State.power_stereo {s : State} (hstride : s.argU 1 = 0) {r : KwRate} {j : Nat} (hj : j < blockCount r (s.argU 2)) :
    powerOf r 2 (s.weighted r) j = fadd (powerOf r 1 (s.weighted r) j) (powerOf r 1 (s.weighted r) j) :=
  powerOf_two _ (by simp only [State.weighted, hstride, Nat.mul_zero]) hj

theorem State.blockPowers_stereo {s : State} (hstride : s.argU 1 = 0) (r : KwRate) :
    s.blockPowers 2 r = (s.blockPowers 1 r).map fun p => fadd p p := by
  rw [blockPowers_eq, blockPowers_eq, List.map_map]
  exact List.map_congr_left fun j hj => power_stereo hstride (List.mem_range.1 hj)

theorem State.length_blockPowers (s : State) (nch : Nat) (r : KwRate) :
    (s.blockPowers nch r).length = blockCount r (s.argU 2) := by
  rw [blockPowers_eq, List.length_map, List.length_range]

/-- R220: RES1, RES2 and RES4 of a measurement, from the gate over its powers. -/
theorem State.measured_gate (s : State) (nch : Nat) (r : KwRate) :
    (s.measured nch r).res[1] = (gate (s.blockPowers nch r)).g ∧
      (s.measured nch r).res[2] = BitVec.ofNat 64 (blockCount r (s.argU 2)) ∧
      (s.measured nch r).res[4] = BitVec.ofNat 64 (gate (s.blockPowers nch r)).nrel := by
  obtain ⟨-, h1, h2, -, h4, -⟩ := s.measured_results nch r
  rw [blockPowers_eq, gate_map_range]
  exact ⟨h1, h2, h4⟩

theorem nrel_le_length (ps : List B64) : (gate ps).nrel ≤ ps.length :=
  (List.length_filter_le ..).trans (List.length_filter_le ..)

/-- R236: RES4 = RES2 says that every block passes both gates. -/
theorem State.all_pass_of_res {s : State} {nch : Nat} {r : KwRate}
    (h : (s.measured nch r).res[4] = (s.measured nch r).res[2]) :
    (gate (s.blockPowers nch r)).nrel = (s.blockPowers nch r).length := by
  obtain ⟨-, h2, h4⟩ := s.measured_gate nch r
  have hle := nrel_le_length (s.blockPowers nch r)
  rw [length_blockPowers] at hle ⊢
  exact ofNat64_inj (hle.trans_lt (s.blockCount_lt r)) (s.blockCount_lt r) (h4.symm.trans (h.trans h2))

/-- R236: the gated mean square of two equal channels. -/
theorem State.measured_stereo_g {s : State} (hstride : s.argU 1 = 0) {r : KwRate} (hcount : blockCount r (s.argU 2) < 2 ^ 53)
    (hfinite : ∀ p ∈ s.blockPowers 1 r, finite64 p) (hall : (s.measured 1 r).res[4] = (s.measured 1 r).res[2])
    (hall' : (s.measured 2 r).res[4] = (s.measured 2 r).res[2]) (h : finite64 (s.measured 2 r).res[1]) :
    (s.measured 2 r).res[1] = fadd (s.measured 1 r).res[1] (s.measured 1 r).res[1] := by
  have hall := all_pass_of_res hall
  have hall' := all_pass_of_res hall'
  rw [blockPowers_stereo hstride, List.length_map] at hall'
  obtain ⟨hg, -⟩ := s.measured_gate 1 r
  obtain ⟨hg', -⟩ := s.measured_gate 2 r
  rw [blockPowers_stereo hstride] at hg'
  rw [hg'] at h ⊢
  rw [hg]
  by_cases hne : s.blockPowers 1 r = []
  · rw [hne]
    rfl
  · exact gate_double hne (s.length_blockPowers 1 r ▸ hcount.le) hfinite hall hall' h

/-- Settles O48: a mean square passes the weight 1.0 unchanged, and means of powers above T_ABS are in the normal range, where
rounding commutes with doubling. -/
theorem duplicateChannelDoubles : Obligations.DuplicateChannelDoubles := by
  refine ⟨fun r k j => ?_, fun ps hne hlen hfinite hall hall' h => gate_double hne hlen hfinite hall hall' h, ?_⟩
  · rw [blockPower_one, blockPower_two]
  rintro s t u _ nblk rfl hstride ht htcode hu hucode hres2 hnblk mono
  obtain ⟨r, hrate, rfl⟩ := execLufsMeasure_of_success (nch := 1) (by decide) ht htcode
  obtain ⟨r', hrate', rfl⟩ := execLufsMeasure_of_success (nch := 2) (by decide) hu hucode
  obtain rfl : r' = r := Option.some.inj (hrate'.symm.trans hrate)
  have hstride : s.argU 1 = 0 := congrArg BitVec.toNat hstride
  obtain ⟨-, hcount, -⟩ := s.measured_gate 1 r'
  obtain ⟨-, hcount', -⟩ := s.measured_gate 2 r'
  obtain rfl : blockCount r' (s.argU 2) = nblk :=
    ofNat64_inj (s.blockCount_lt r') (hnblk.trans (by norm_num)) (hcount.symm.trans hres2)
  have hmono : ∀ j, j < blockCount r' (s.argU 2) → mono j = powerOf r' 1 (s.weighted r') j :=
    fun j hj => s.power_measured 1 r' hj
  refine ⟨hcount'.trans hcount.symm, fun j hj => ?_, fun hfinite hall hall' h => ?_⟩
  · rw [hmono j hj, ← State.power_stereo hstride hj]
    exact s.power_measured 2 r' hj
  · refine State.measured_stereo_g hstride hnblk (fun p hp => ?_) hall hall' h
    rw [State.blockPowers_eq] at hp
    obtain ⟨j, hj, rfl⟩ := List.mem_map.1 hp
    have hj := List.mem_range.1 hj
    exact hmono j hj ▸ hfinite j hj

end Sys2Proof.Machine
end

section
/-!
PROOF. Magnitudes and their maximum (00_scope.md R24, R25): among the data that `fabs` answers, `fmax` is the maximum of the
patterns, with the canonical NaN above all others.
-/

namespace Sys2Proof.Machine

/-- R24: what `fabs` can answer, a datum without a sign that is no NaN but the canonical one. -/
structure Magnitude (v : B64) : Prop where
  canonical : CanonicalNaN v
  neg : neg64 v = false

theorem magnitude_nan64 : Magnitude nan64 := ⟨canonicalNaN_nan64, rfl⟩

theorem magnitude_zero : Magnitude 0 := ⟨.of_not_nan rfl, rfl⟩

theorem magnitude_fabs (v : B64) : Magnitude (fabs v) := by
  refine ⟨canonicalNaN_fabs v, ?_⟩
  unfold fabs
  split
  · rfl
  · exact neg64_pack64 _ (mag64_lt v)

namespace Magnitude

variable {a b : B64}

/-- A magnitude is given by its pattern without the sign. -/
theorem ext (ha : Magnitude a) (hb : Magnitude b) (h : mag64 a = mag64 b) : a = b := by
  apply BitVec.eq_of_toNat_eq
  rw [toNat_eq_sign_mag64, toNat_eq_sign_mag64, ha.neg, hb.neg, h]

theorem order64_eq (ha : Magnitude a) : order64 a = mag64 a := by
  rw [order64, ha.neg, if_neg Bool.false_ne_true]

/-- R25: the pattern of the canonical NaN is the greatest. -/
theorem mag64_le_nan64 (ha : Magnitude a) : mag64 a ≤ mag64 nan64 := by
  by_cases hnan : isNaN64 a = true
  · rw [ha.canonical hnan]
  · rw [isNaN64, decide_eq_true_iff] at hnan
    exact (not_lt.1 hnan).trans (by decide)

/-- R26: two magnitudes that are no NaN are compared by their patterns. -/
theorem fle_iff (ha : Magnitude a) (hb : Magnitude b) (hna : isNaN64 a = false) (hnb : isNaN64 b = false) :
    fle a b = true ↔ mag64 a ≤ mag64 b := by
  simp [fle, hna, hnb, ha.order64_eq, hb.order64_eq]

/-- R25: `fmax` of magnitudes is the maximum of the patterns. -/
theorem mag64_fmax (ha : Magnitude a) (hb : Magnitude b) : mag64 (fmax a b) = max (mag64 a) (mag64 b) := by
  unfold fmax
  split
  case isTrue hnan =>
    rcases Bool.or_eq_true_iff.1 hnan with h | h
    · rw [ha.canonical h, max_eq_left hb.mag64_le_nan64]
    · rw [hb.canonical h, max_eq_right ha.mag64_le_nan64]
  case isFalse hnan =>
    obtain ⟨hna, hnb⟩ : isNaN64 a = false ∧ isNaN64 b = false := by simpa using hnan
    have hge : fge a b = true ↔ mag64 b ≤ mag64 a := hb.fle_iff ha hnb hna
    split
    · next h => rw [max_eq_left (hge.1 h)]
    · next h => rw [max_eq_right (not_le.1 (mt hge.2 h)).le]

theorem fmax (ha : Magnitude a) (hb : Magnitude b) : Magnitude (fmax a b) := by
  refine ⟨canonicalNaN_fmax a b, ?_⟩
  unfold Machine.fmax
  split_ifs
  · rfl
  · exact ha.neg
  · exact hb.neg

theorem fmax_self (ha : Magnitude a) : Machine.fmax a a = a :=
  (ha.fmax ha).ext ha (by rw [ha.mag64_fmax ha, max_self])

theorem zero_fmax (ha : Magnitude a) : Machine.fmax 0 a = a :=
  (magnitude_zero.fmax ha).ext ha (by rw [magnitude_zero.mag64_fmax ha]; exact Nat.zero_max _)

end Magnitude

/-! ### A running maximum -/

/-- R25, R283: `p` is a magnitude whose pattern is at least `m`; the canonical NaN is at least every magnitude. -/
structure AtLeast (m : Nat) (p : B64) : Prop where
  magnitude : Magnitude p
  le : m ≤ mag64 p

theorem Magnitude.atLeast {p : B64} (hp : Magnitude p) : AtLeast (mag64 p) p := ⟨hp, le_rfl⟩

theorem AtLeast.fmax_left {m : Nat} {p q : B64} (hp : AtLeast m p) (hq : Magnitude q) : AtLeast m (fmax p q) :=
  ⟨hp.magnitude.fmax hq, by rw [hp.magnitude.mag64_fmax hq]; exact hp.le.trans (le_max_left _ _)⟩

theorem AtLeast.fmax_right {m : Nat} {p q : B64} (hp : Magnitude p) (hq : AtLeast m q) : AtLeast m (fmax p q) :=
  ⟨hp.fmax hq.magnitude, by rw [hp.mag64_fmax hq.magnitude]; exact hq.le.trans (le_max_right _ _)⟩

section
variable {α : Type} {g : α → B64} (hg : ∀ x, Magnitude (g x))
include hg

/-- A running maximum never falls. -/
theorem AtLeast.foldl {m : Nat} {p : B64} (hp : AtLeast m p) (xs : List α) :
    AtLeast m (xs.foldl (fun p x => fmax p (g x)) p) :=
  List.foldlRecOn (motive := AtLeast m) xs _ hp fun _ hacc x _ => hacc.fmax_left (hg x)

/-- A running maximum is at least each of its terms. -/
theorem AtLeast.foldl_of_mem {m : Nat} {p : B64} (hp : Magnitude p) {xs : List α} {x : α} (hx : x ∈ xs)
    (hm : AtLeast m (g x)) : AtLeast m (xs.foldl (fun p x => fmax p (g x)) p) := by
  obtain ⟨before, after, rfl⟩ := List.append_of_mem hx
  rw [List.foldl_append, List.foldl_cons]
  exact .foldl hg (.fmax_right (AtLeast.foldl hg hp.atLeast before).magnitude hm) after

/-- R25: the pattern of a running maximum. -/
theorem mag64_foldl_fmax {p : B64} (hp : Magnitude p) (xs : List α) :
    mag64 (xs.foldl (fun p x => fmax p (g x)) p) = (xs.map fun x => mag64 (g x)).foldl max (mag64 p) := by
  induction xs generalizing p with
  | nil => rfl
  | cons x xs ih => rw [List.foldl_cons, ih (hp.fmax (hg x)), hp.mag64_fmax (hg x), List.map_cons, List.foldl_cons]

end

end Sys2Proof.Machine
end

section
/-!
PROOF. The peaks of TP_MEASURE as running maxima (44_truepeak.md R277, R280, R283, R285).
-/

namespace Sys2Proof.Machine

/-! ### The peak of a channel -/

/-- R277: a step of the loop keeps the peak so far and takes in the newest sample. -/
theorem atLeast_peakAt {m : Nat} {peak : B64} (hpeak : Magnitude peak) (hist : List B64) (n : Nat)
    (h : AtLeast m peak ∨ AtLeast m (fabs (hist.getD 0 0))) : AtLeast m (peakAt peak hist n) := by
  have hsample : AtLeast m (fmax peak (fabs (hist.getD 0 0))) :=
    h.elim (·.fmax_left (magnitude_fabs _)) (.fmax_right hpeak)
  unfold peakAt
  dsimp only
  split
  · exact hsample
  · exact hsample.foldl (fun ph => magnitude_fabs (interpolate (tpPhase ph) hist)) _

theorem magnitude_peakAt {peak : B64} (hpeak : Magnitude peak) (hist : List B64) (n : Nat) :
    Magnitude (peakAt peak hist n) :=
  (atLeast_peakAt hpeak hist n (.inl hpeak.atLeast)).magnitude

/-- R277: the loop keeps the peak so far. -/
theorem AtLeast.scanPeak {m : Nat} (xs : List B64) : ∀ {peak : B64} (_ : AtLeast m peak) (hist : List B64) (n : Nat),
    AtLeast m (scanPeak peak hist n xs) := by
  induction xs with
  | nil => exact fun hpeak _ _ => hpeak
  | cons x xs ih => exact fun hpeak hist n => ih (atLeast_peakAt hpeak.magnitude (x :: hist) n (.inl hpeak)) _ _

/-- R277, R282: the loop takes in every sample. -/
theorem atLeast_scanPeak_of_mem {x : B64} {xs : List B64} (hx : x ∈ xs) :
    ∀ {peak : B64} (_ : Magnitude peak) (hist : List B64) (n : Nat),
      AtLeast (mag64 (fabs x)) (scanPeak peak hist n xs) := by
  induction xs with
  | nil => cases hx
  | cons y ys ih =>
    intro peak hpeak hist n
    rcases List.mem_cons.1 hx with rfl | hmem
    · exact .scanPeak ys (atLeast_peakAt hpeak (x :: hist) n (.inr (magnitude_fabs x).atLeast)) _ _
    · exact ih hmem (magnitude_peakAt hpeak (y :: hist) n) _ _

theorem magnitude_channelPeak (xs : List B64) : Magnitude (channelPeak xs) :=
  (AtLeast.scanPeak xs magnitude_zero.atLeast [] 0).magnitude

/-! ### The peak over the channels -/

theorem magnitude_truePeak (chans : List (List B64)) : Magnitude (truePeak chans) :=
  (AtLeast.foldl magnitude_channelPeak magnitude_zero.atLeast chans).magnitude

/-- R282: the true peak is at least the magnitude of every sample of every channel. -/
theorem atLeast_truePeak_of_mem {x : B64} {xs : List B64} {chans : List (List B64)} (hxs : xs ∈ chans) (hx : x ∈ xs) :
    AtLeast (mag64 (fabs x)) (truePeak chans) :=
  .foldl_of_mem magnitude_channelPeak magnitude_zero hxs (atLeast_scanPeak_of_mem hx magnitude_zero [] 0)

theorem truePeak_one (xs : List B64) : truePeak [xs] = channelPeak xs := (magnitude_channelPeak xs).zero_fmax

/-- R285: the maximum of the patterns does not depend on their order. -/
theorem truePeak_perm {cs ds : List (List B64)} (h : cs.Perm ds) : truePeak cs = truePeak ds := by
  refine (magnitude_truePeak cs).ext (magnitude_truePeak ds) ?_
  rw [truePeak, truePeak, mag64_foldl_fmax magnitude_channelPeak magnitude_zero,
    mag64_foldl_fmax magnitude_channelPeak magnitude_zero]
  exact (h.map _).foldl_eq _

/-- R285: a channel repeated counts once. -/
theorem truePeak_replicate (xs : List B64) (k : Nat) : truePeak (List.replicate (k + 1) xs) = truePeak [xs] := by
  induction k with
  | zero => rfl
  | succ k ih =>
    have hsnoc : truePeak (List.replicate (k + 1) xs ++ [xs]) =
        fmax (truePeak (List.replicate (k + 1) xs)) (channelPeak xs) := by
      rw [truePeak, List.foldl_append]
      rfl
    rw [List.replicate_succ', hsnoc, ih, truePeak_one, (magnitude_channelPeak xs).fmax_self]

end Sys2Proof.Machine
end

section
/-!
PROOF. What TP_MEASURE leaves (44_truepeak.md R260 to R262, R276, R277, R280): the loop by the index of the sample, the
frame of the command where its checks pass, and of the command with no channels or another rate operand.
-/

namespace Sys2Proof.Machine

/-! ### The loop by the index of the sample -/

theorem tpPhase_eq_map_range {ph : Nat} (hph : ph < 4) :
    tpPhase ph = (List.range 12).map fun k => tpPatterns.getD (12 * ph + k) 0 := by
  interval_cases ph <;> rfl

/-- The history of the loop after sample `n`: the samples up to it, the newest first. -/
theorem reverse_map_range_succ (x : Nat → B64) (n : Nat) :
    ((List.range (n + 1)).map x).reverse = (List.range (n + 1)).map fun k => x (n - k) := by
  apply List.ext_getElem
  · simp
  · simp

theorem zip_map_range {α β : Type} (f : Nat → α) (g : Nat → β) {m n : Nat} (h : m ≤ n) :
    ((List.range m).map f).zip ((List.range n).map g) = (List.range m).map fun k => (f k, g k) := by
  apply List.ext_getElem
  · simpa using h
  · simp

/-- R276: the interpolated point from a history of twelve samples or more. -/
theorem interpolate_history (x : Nat → B64) {n ph : Nat} (hn : 11 ≤ n) (hph : ph < 4) :
    interpolate (tpPhase ph) ((List.range (n + 1)).map fun k => x (n - k)) = pointAt x n ph := by
  rw [interpolate, tpPhase_eq_map_range hph, zip_map_range _ _ (Nat.succ_le_succ hn), List.map_map, fsum_map_range]
  rfl

/-- R277: one step of the loop, by the index of its sample. -/
theorem peakAt_history (x : Nat → B64) (n : Nat) :
    peakAt (peakOf x n) ((List.range (n + 1)).map fun k => x (n - k)) n = peakOf x (n + 1) := by
  have hnewest : ((List.range (n + 1)).map fun k => x (n - k)).getD 0 0 = x n := by simp
  rw [peakAt, hnewest, peakOf]
  split
  case isTrue => rfl
  case isFalse hn =>
    have hpoint : ∀ ph, ph < 4 → interpolate (tpPhase ph) ((List.range (n + 1)).map fun k => x (n - k)) = pointAt x n ph :=
      fun ph => interpolate_history x (not_lt.1 hn)
    rw [← hpoint 0 (by decide), ← hpoint 1 (by decide), ← hpoint 2 (by decide), ← hpoint 3 (by decide)]
    rfl

theorem scanPeak_append (xs ys : List B64) : ∀ (peak : B64) (hist : List B64) (n : Nat),
    scanPeak peak hist n (xs ++ ys) = scanPeak (scanPeak peak hist n xs) (xs.reverse ++ hist) (n + xs.length) ys := by
  induction xs with
  | nil => exact fun _ _ _ => rfl
  | cons x xs ih =>
    intro peak hist n
    rw [List.cons_append, scanPeak, ih, List.reverse_cons, List.append_assoc, List.length_cons, Nat.add_right_comm n,
      ← Nat.add_assoc, scanPeak, List.singleton_append]

/-- R277: the peak of a channel, by the index of the sample. -/
theorem channelPeak_map_range (x : Nat → B64) (n : Nat) : channelPeak ((List.range n).map x) = peakOf x n := by
  induction n with
  | zero => rfl
  | succ n ih =>
    have hhist : x n :: ((List.range n).map x).reverse = (List.range (n + 1)).map fun k => x (n - k) := by
      rw [← reverse_map_range_succ]
      simp [List.range_succ]
    rw [channelPeak] at ih
    rw [← peakAt_history, ← hhist, channelPeak, List.range_succ, List.map_append, scanPeak_append, ih]
    simp [scanPeak]

/-! ### The measurement -/

/-- R260, R280: TP_MEASURE of `nch` channels, past its checks. -/
def State.truePeaked (s : State) (nch : Nat) : State :=
  (s.setRes 0 (truePeak ((s.channels nch).map (List.map widen)))).finish

theorem execTpMeasure_of_many {nch : BitVec 4} (h : Config.chMax < nch.toNat) (s : State) :
    execTpMeasure nch s = .next (s.raise .illcmd) := by
  simp only [execTpMeasure, if_pos h]

theorem execTpMeasure_zero (s : State) : execTpMeasure 0 s = .next (s.setRes 0 0).finish := rfl

theorem execTpMeasure_of_pass {nch : BitVec 4} {s : State} (hmany : nch.toNat ≤ Config.chMax) (hsome : nch ≠ 0)
    (hpass : firstError (tpChecks (s.argU 0) (s.argU 1) (s.argU 2) nch.toNat) = none) :
    execTpMeasure nch s = .next (s.truePeaked nch.toNat) := by
  rcases execTpMeasure_cases nch s with ⟨hlt, -⟩ | ⟨hzero, -⟩ | ⟨-, -, ⟨e, he, -⟩ | ⟨-, h⟩⟩
  · exact absurd hmany hlt.not_ge
  · exact absurd (BitVec.toNat_inj.1 hzero) hsome
  · rw [hpass] at he
    cases he
  · exact h

theorem execTpMeasure_of_fail {nch : BitVec 4} {s : State} {e : ErrCode} (hmany : nch.toNat ≤ Config.chMax)
    (hsome : nch ≠ 0) (hfail : firstError (tpChecks (s.argU 0) (s.argU 1) (s.argU 2) nch.toNat) = some e) :
    execTpMeasure nch s = .next (s.raise e) := by
  have h := execTpMeasure_reports nch s
  rwa [if_neg hmany.not_gt, if_neg hsome, hfail] at h

/-- R142: TP_MEASURE of some channels ends with ERRCODE 0x00 only when it measured them. -/
theorem execTpMeasure_of_success {nch : BitVec 4} {s t : State} (hsome : nch ≠ 0) (hexec : execTpMeasure nch s = .next t)
    (hcode : t.status.errcode = 0x00) : t = s.truePeaked nch.toNat := by
  rcases execTpMeasure_cases nch s with ⟨-, he⟩ | ⟨hzero, -⟩ | ⟨-, -, ⟨e, -, he⟩ | ⟨-, h⟩⟩
  · exact absurd he (ne_raise_of_success hexec hcode _)
  · exact absurd (BitVec.toNat_inj.1 hzero) hsome
  · exact absurd he (ne_raise_of_success hexec hcode _)
  · exact Host.Outcome.next.inj (hexec.symm.trans h)

/-- R280: RES0 of a measurement. -/
theorem State.truePeaked_res0 (s : State) (nch : Nat) :
    (s.truePeaked nch).res[0] = truePeak ((s.channels nch).map (List.map widen)) :=
  Vector.getElem_set_self (by decide)

/-- R277, R280: the true peak of the channels of the command, by the indices of channel and sample. -/
theorem State.truePeak_channels (s : State) (nch : Nat) : truePeak ((s.channels nch).map (List.map widen)) =
    (List.range nch).foldl
      (fun p c => fmax p (peakOf (fun i => widen (s.loadS (s.argU 0 + c * s.argU 1 + 4 * i))) (s.argU 2))) 0 := by
  rw [truePeak, State.channels, List.map_map, List.foldl_map]
  refine List.foldl_ext _ _ _ fun p c _ => congrArg (fmax p) ?_
  rw [← channelPeak_map_range, Function.comp_apply, State.loadSamples, List.map_map]
  rfl

/-- R147, R148: the operands that pass the checks of TP_MEASURE. -/
theorem tpChecks_pass_of {base stride n c : Nat} (hbase : base % 4 = 0) (hstride : stride % 4 = 0)
    (hchannels : ∀ k, k < c → n = 0 ∨ base + k * stride + 4 * n ≤ Config.dmemBytes) :
    firstError (tpChecks base stride n c) = none := by
  rw [firstError_tpChecks, if_neg (by omega), if_neg]
  rintro ⟨k, hk, hn, hlt⟩
  have := hchannels k hk
  omega

/-- Settles O49: the hypotheses are that the checks pass. -/
theorem tpResult : Obligations.TpResult := by
  rintro nch s _ _ _ hsome hmany rfl rfl rfl hbase hstride hrange
  refine (execTpMeasure_of_pass hmany hsome (tpChecks_pass_of hbase hstride hrange)).trans ?_
  rw [State.truePeaked, State.truePeak_channels, State.finish_eq_succeeded]
  rfl

/-- Settles O50: with no channels no operand is checked. -/
theorem tpOfNoChannels : Obligations.TpOfNoChannels :=
  fun s => (execTpMeasure_zero s).trans (congrArg _ (s.setRes 0 0).finish_eq_succeeded)

/-! ### The rate operand -/

theorem firstError_tpChecks_ne_rate (base stride n c : Nat) : firstError (tpChecks base stride n c) ≠ some .rate := by
  rw [firstError_tpChecks]
  split_ifs <;> simp

/-- R300: 0x02 is the code of a rate error alone. -/
theorem ErrCode.byte_ne_two {e : ErrCode} (h : e ≠ .rate) : e.byte ≠ 0x02 := by
  cases e with
  | rate => exact absurd rfl h
  | illcmd | align | range | overlap => decide

/-- The state with `v` in the rate latch. -/
def State.withRate (s : State) (v : B64) : State := { s with argl := s.argl.set 3 v }

section
variable (s : State) (v : B64)

theorem State.argU_withRate {i : Fin 8} (hi : i ≠ 3) : (s.withRate v).argU i = s.argU i := by
  have hne : 3 ≠ i.val := fun h => hi (Fin.ext h.symm)
  simp [State.argU, State.withRate, Vector.getElem_set_ne, hne]

@[simp] theorem State.argU_zero_withRate : (s.withRate v).argU 0 = s.argU 0 := s.argU_withRate v (by decide)
@[simp] theorem State.argU_one_withRate : (s.withRate v).argU 1 = s.argU 1 := s.argU_withRate v (by decide)
@[simp] theorem State.argU_two_withRate : (s.withRate v).argU 2 = s.argU 2 := s.argU_withRate v (by decide)

@[simp] theorem State.memRead_withRate (a n : Nat) : (s.withRate v).memRead a n = s.memRead a n :=
  State.memRead_congr n fun _ _ => rfl

/-- R262: the rate latch has no part in the channels. -/
theorem State.channels_withRate (nch : Nat) : (s.withRate v).channels nch = s.channels nch := by
  simp [State.channels, State.loadSamples, State.loadS]

theorem State.truePeaked_withRate (nch : Nat) : (s.withRate v).truePeaked nch = (s.truePeaked nch).withRate v := by
  rw [State.truePeaked, State.channels_withRate]
  rfl

end

/-- Settles O51: the checks and the channels are the same, and every completion passes over the latch. -/
theorem tpIgnoresRate : Obligations.TpIgnoresRate := by
  intro nch s v
  rcases execTpMeasure_cases nch s with ⟨hmany, h⟩ | ⟨hzero, h⟩ | ⟨hfew, hsome, ⟨e, hfail, h⟩ | ⟨hpass, h⟩⟩
  · exact ⟨_, h, ErrCode.byte_ne_two (e := .illcmd) nofun, execTpMeasure_of_many hmany (s.withRate v)⟩
  · obtain rfl : nch = 0 := BitVec.toNat_inj.1 hzero
    exact ⟨_, h, by simp, execTpMeasure_zero (s.withRate v)⟩
  all_goals have hne : nch ≠ 0 := fun h0 => hsome (congrArg BitVec.toNat h0)
  · have hcode : e ≠ .rate := fun he => firstError_tpChecks_ne_rate _ _ _ _ (he ▸ hfail)
    exact ⟨_, h, ErrCode.byte_ne_two hcode, execTpMeasure_of_fail (s := s.withRate v) hfew hne (by simpa using hfail)⟩
  · refine ⟨_, h, by simp, ?_⟩
    exact (execTpMeasure_of_pass (s := s.withRate v) hfew hne (by simpa using hpass)).trans
      (congrArg _ (s.truePeaked_withRate v nch.toNat))

end Sys2Proof.Machine
end

section
/-!
PROOF. What the true peak says about the samples and the channels (44_truepeak.md R282, R283, R285): it is at least every
sample, and a maximum over the channels.
-/

namespace Sys2Proof.Machine

/-! ### The samples of a measurement -/

/-- R87: sample `i` of channel `c` is among the channels of the command. -/
theorem State.exists_channel_of_sample (s : State) {nch c i : Nat} (hc : c < nch) (hi : i < s.argU 2) :
    ∃ xs ∈ (s.channels nch).map (List.map widen), widen (s.loadS (s.argU 0 + c * s.argU 1 + 4 * i)) ∈ xs := by
  refine ⟨_, List.mem_map_of_mem (List.mem_map_of_mem (List.mem_range.2 hc)), ?_⟩
  exact List.mem_map_of_mem (List.mem_map_of_mem (List.mem_range.2 hi))

/-- R22: a NaN sample widens to the canonical NaN. -/
theorem widen_of_nan {v : B32} (h : nanPattern32 v) : widen v = nan64 := by
  obtain ⟨-, -, -, hwiden, -⟩ := conversionsAreCorrectlyRounded
  exact hwiden v h

/-- R283: only the canonical NaN is at least the NaN. -/
theorem AtLeast.eq_nan64 {p : B64} (h : AtLeast (mag64 nan64) p) : p = nan64 :=
  h.magnitude.ext magnitude_nan64 (le_antisymm h.magnitude.mag64_le_nan64 h.le)

/-- R282: a running maximum that is no NaN is at least each of its terms. -/
theorem AtLeast.fle {a p : B64} (h : AtLeast (mag64 a) p) (ha : Magnitude a) (hp : isNaN64 p = false) :
    fle a p = true := by
  refine (ha.fle_iff h.magnitude ?_ hp).2 h.le
  by_contra hnan
  rw [ha.canonical (Bool.not_eq_false _ ▸ hnan)] at h
  rw [h.eq_nan64] at hp
  exact absurd hp (by decide)

/-- Settles O53: RES0 is a running maximum that takes in the sample, in an order with the NaN on top. -/
theorem tpBoundsEverySample : Obligations.TpBoundsEverySample := by
  intro nch s t c i hexec hcode hc hi x
  have hsome : nch ≠ 0 := by
    rintro rfl
    exact Nat.not_lt_zero c hc
  obtain rfl := execTpMeasure_of_success hsome hexec hcode
  obtain ⟨xs, hxs, hx⟩ := s.exists_channel_of_sample hc hi
  have hpeak : AtLeast (mag64 (fabs (widen x))) (s.truePeaked nch.toNat).res[0] := by
    rw [s.truePeaked_res0]
    exact atLeast_truePeak_of_mem hxs hx
  refine ⟨fun hnan => ?_, fun hres => hpeak.fle (magnitude_fabs _) ?_⟩
  · rw [widen_of_nan hnan] at hpeak
    exact hpeak.eq_nan64
  · rwa [← isNaN64_iff, Bool.not_eq_true] at hres

/-! ### The laws of the channels -/

section
variable {s : State} (hstride : s.argU 1 = 0)
include hstride

/-- R283: with stride 0 every channel is the first one. -/
theorem State.channels_of_stride_zero (nch : Nat) :
    s.channels nch = List.replicate nch (s.loadSamples (s.argU 0) (s.argU 2)) := by
  simp [State.channels, channelBase, hstride]

theorem State.truePeaked_of_stride_zero {nch : Nat} (hsome : nch ≠ 0) : s.truePeaked nch = s.truePeaked 1 := by
  obtain ⟨k, rfl⟩ := Nat.exists_eq_succ_of_ne_zero hsome
  rw [State.truePeaked, State.truePeaked, channels_of_stride_zero hstride, channels_of_stride_zero hstride,
    List.map_replicate, List.map_replicate, truePeak_replicate]
  rfl

/-- R283: with stride 0 the checks of all channels are those of the first. -/
theorem State.tpChecks_of_stride_zero {nch : Nat} (hsome : nch ≠ 0) :
    firstError (tpChecks (s.argU 0) (s.argU 1) (s.argU 2) nch) = firstError (tpChecks (s.argU 0) (s.argU 1) (s.argU 2) 1) := by
  have hrange : ∀ p : Prop, (∃ k, k < nch ∧ p) ↔ ∃ k, k < 1 ∧ p := fun p =>
    ⟨fun ⟨_, _, hp⟩ => ⟨0, one_pos, hp⟩, fun ⟨_, _, hp⟩ => ⟨0, Nat.pos_of_ne_zero hsome, hp⟩⟩
  simp only [firstError_tpChecks, hstride, Nat.mul_zero, Nat.add_zero, hrange]

end

/-- Settles O54: the pattern of RES0 is a maximum of natural numbers. -/
theorem tpChannelLaws : Obligations.TpChannelLaws := by
  refine ⟨fun cs ds => truePeak_perm, fun c => truePeak_replicate c 1, fun cs => ?_, fun nch s hsome hmany hargl => ?_⟩
  · simp only [truePeak_one]
    rfl
  · have hstride : s.argU 1 = 0 := congrArg BitVec.toNat hargl
    have hne : nch.toNat ≠ 0 := fun h => hsome (BitVec.toNat_inj.1 h)
    have hchecks := State.tpChecks_of_stride_zero hstride hne
    show execTpMeasure nch s = execTpMeasure 1 s
    cases hone : firstError (tpChecks (s.argU 0) (s.argU 1) (s.argU 2) 1) with
    | some e =>
      rw [execTpMeasure_of_fail hmany hsome (hchecks.trans hone), execTpMeasure_of_fail (by decide) (by decide) hone]
    | none =>
      rw [execTpMeasure_of_pass hmany hsome (hchecks.trans hone), execTpMeasure_of_pass (by decide) (by decide) hone,
        State.truePeaked_of_stride_zero hstride hne]
      rfl

end Sys2Proof.Machine
end

section
/-!
PROOF. Sign symmetry of the true peak (44_truepeak.md R286): negated samples give negated products and sums, up to the sign of
a zero, which `fabs` does not see.
-/

namespace Sys2Proof.Machine

/-! ### Opposite data -/

/-- `b` is `a` with the other sign; the sign of a zero is left open, and so is that of a NaN. -/
structure Opposite (a b : B64) : Prop where
  mag : mag64 b = mag64 a
  neg : mag64 a ≠ 0 → isNaN64 a = false → neg64 b = !neg64 a

theorem opposite_nan64 : Opposite nan64 nan64 := ⟨rfl, fun _ h => absurd h (by decide)⟩

theorem opposite_zero : Opposite 0 0 := ⟨rfl, fun h => absurd rfl h⟩

theorem opposite_pack64 {s s' : Bool} {m : Nat} (hm : m < 2 ^ 63) (h : m ≠ 0 → s' = !s) :
    Opposite (pack64 s m) (pack64 s' m) where
  mag := by rw [mag64_pack64 s' hm, mag64_pack64 s hm]
  neg := by rw [mag64_pack64 s hm, neg64_pack64 s hm, neg64_pack64 s' hm]; exact fun h0 _ => h h0

/-- R19: rounding does not look at the sign. -/
theorem opposite_round64 {s s' : Bool} {n : Nat} (d : Nat) (h : n ≠ 0 → s' = !s) :
    Opposite (round64 s n d) (round64 s' n d) := by
  refine opposite_pack64 ((roundUnits_le_inf ..).trans_lt (by norm_num [infMag64])) fun hr => h ?_
  rintro rfl
  exact hr (by simp [roundUnits, infMag64])

namespace Opposite

variable {a b c d : B64}

section
variable (h : Opposite a b)
include h

theorem isNaN64 : isNaN64 b = isNaN64 a := by rw [Machine.isNaN64, Machine.isNaN64, h.mag]

theorem isInf64 : isInf64 b = isInf64 a := by rw [Machine.isInf64, Machine.isInf64, h.mag]

theorem isZero64 : isZero64 b = isZero64 a := by rw [Machine.isZero64, Machine.isZero64, h.mag]

theorem units64 : units64 b = units64 a := by rw [Machine.units64, Machine.units64, h.mag]

theorem neg_of_isInf64 (ha : Machine.isInf64 a = true) : neg64 b = !neg64 a := by
  rw [Machine.isInf64, decide_eq_true_iff] at ha
  refine h.neg ?_ ?_
  · rw [ha]; decide
  · rw [Machine.isNaN64, ha]; decide

theorem signedUnits64 (hnan : Machine.isNaN64 a = false) : signedUnits64 b = -signedUnits64 a := by
  rw [Machine.signedUnits64, Machine.signedUnits64, h.units64]
  by_cases h0 : mag64 a = 0
  · simp [units64_eq_zero.2 h0]
  · rw [h.neg h0 hnan]
    cases neg64 a <;> simp

/-- R24: opposite data have the same absolute value. -/
theorem fabs_eq : fabs b = fabs a := by rw [fabs, fabs, h.isNaN64, h.mag]

/-- R19: a product with one opposite factor is opposite. -/
theorem fmul_left (c : B64) : Opposite (fmul c a) (fmul c b) := by
  have hsign : mag64 a ≠ 0 → Machine.isNaN64 a = false → (neg64 c != neg64 b) = !(neg64 c != neg64 a) := fun h0 hnan => by
    rw [h.neg h0 hnan]
    cases neg64 c <;> cases neg64 a <;> rfl
  unfold fmul
  rw [h.isNaN64, h.isInf64, h.isZero64, h.units64]
  split_ifs with hnan hinf hzero
  · exact opposite_nan64
  · exact opposite_nan64
  · refine opposite_pack64 (by norm_num [infMag64]) fun _ => hsign (fun h0 => hzero ?_) (by simp_all)
    simp [Machine.isZero64, h0]
  · refine opposite_round64 _ fun hn => hsign (fun h0 => hn ?_) (by simp_all)
    rw [units64_eq_zero.2 h0, Nat.mul_zero]

end

/-- R19: a sum of opposite terms is opposite; an exact zero sum is +0.0 on both sides. -/
theorem fadd (hab : Opposite a b) (hcd : Opposite c d) : Opposite (fadd a c) (fadd b d) := by
  unfold Machine.fadd
  rw [hab.isNaN64, hcd.isNaN64, hab.isInf64, hcd.isInf64]
  split
  case isTrue => exact opposite_nan64
  case isFalse hnan =>
    obtain ⟨hna, hnc⟩ : Machine.isNaN64 a = false ∧ Machine.isNaN64 c = false := by simpa using hnan
    split
    case isTrue ha =>
      have hsign : (Machine.isInf64 c && neg64 b != neg64 d) = (Machine.isInf64 c && neg64 a != neg64 c) := by
        cases hc : Machine.isInf64 c with
        | false => rfl
        | true => rw [hab.neg_of_isInf64 ha, hcd.neg_of_isInf64 hc, Bool.not_bne_not]
      rw [hsign]
      split
      · exact opposite_nan64
      · exact hab
    case isFalse =>
      split
      case isTrue => exact hcd
      case isFalse =>
        have hz : Machine.signedUnits64 b + Machine.signedUnits64 d =
            -(Machine.signedUnits64 a + Machine.signedUnits64 c) := by
          rw [hab.signedUnits64 hna, hcd.signedUnits64 hnc, neg_add]
        simp only [hz, neg_eq_zero, Int.natAbs_neg]
        split
        · exact opposite_pack64 (by norm_num) fun h0 => absurd rfl h0
        · next h0 =>
          refine opposite_round64 _ fun _ => ?_
          rw [← decide_not, decide_eq_decide]
          omega

end Opposite

/-! ### The loop over opposite samples -/

theorem forall₂_products {xs ys : List B64} (h : List.Forall₂ Opposite xs ys) : ∀ phase : List B64,
    List.Forall₂ Opposite ((phase.zip xs).map fun cx => fmul cx.1 cx.2) ((phase.zip ys).map fun cx => fmul cx.1 cx.2) := by
  induction h with
  | nil => intro phase; simp
  | cons hxy _ ih =>
    intro phase
    cases phase with
    | nil => exact .nil
    | cons c phase => exact .cons (hxy.fmul_left c) (ih phase)

/-- R276: the interpolated point of opposite samples is opposite. -/
theorem opposite_interpolate {xs ys : List B64} (h : List.Forall₂ Opposite xs ys) (phase : List B64) :
    Opposite (interpolate phase xs) (interpolate phase ys) :=
  List.rel_foldl (fun _ _ hacc _ _ hterm => hacc.fadd hterm) opposite_zero (forall₂_products h phase)

/-- R277: a step of the loop sees only absolute values. -/
theorem peakAt_opposite {x y : B64} {xs ys : List B64} (hxy : Opposite x y) (h : List.Forall₂ Opposite xs ys) (peak : B64)
    (n : Nat) : peakAt peak (y :: ys) n = peakAt peak (x :: xs) n := by
  have hpoint : ∀ ph, fabs (interpolate (tpPhase ph) (y :: ys)) = fabs (interpolate (tpPhase ph) (x :: xs)) :=
    fun ph => (opposite_interpolate (.cons hxy h) (tpPhase ph)).fabs_eq
  simp only [peakAt, List.getD_cons_zero, hxy.fabs_eq, hpoint]

theorem scanPeak_opposite {xs ys : List B64} (h : List.Forall₂ Opposite xs ys) :
    ∀ (peak : B64) {hist hist' : List B64} (_ : List.Forall₂ Opposite hist hist') (n : Nat),
      scanPeak peak hist' n ys = scanPeak peak hist n xs := by
  induction h with
  | nil => exact fun _ _ _ _ _ => rfl
  | cons hxy _ ih =>
    intro peak hist hist' hhist n
    rw [scanPeak, scanPeak, peakAt_opposite hxy hhist]
    exact ih _ (.cons hxy hhist) _

/-- R286: opposite samples have the same peak. -/
theorem channelPeak_opposite {xs ys : List B64} (h : List.Forall₂ Opposite xs ys) : channelPeak ys = channelPeak xs :=
  scanPeak_opposite h 0 .nil 0

/-! ### The sign bit of a sample -/

theorem neg32_xor_sign (v : B32) : neg32 (v ^^^ 0x80000000) = !neg32 v := by
  rw [neg32, BitVec.msb_xor, ← neg32]
  exact Bool.xor_true _

theorem mag32_xor_sign (v : B32) : mag32 (v ^^^ 0x80000000) = mag32 v := by
  have h : ∀ x : B32, mag32 x = (x.extractLsb' 0 31).toNat := fun x => by simp [mag32, BitVec.extractLsb'_toNat]
  rw [h, h, BitVec.extractLsb'_xor]
  simp

/-- R22: a sample with its sign bit flipped widens to the opposite datum. -/
theorem opposite_widen (v : B32) : Opposite (widen v) (widen (v ^^^ 0x80000000)) := by
  unfold widen isNaN32 isInf32 units32
  rw [mag32_xor_sign, neg32_xor_sign]
  split_ifs
  · exact opposite_nan64
  · exact opposite_pack64 (by norm_num [infMag64]) fun _ => rfl
  · exact opposite_round64 _ fun _ => rfl

/-- Settles O55: the widened samples are opposite. -/
theorem tpSignSymmetry : Obligations.TpSignSymmetry := by
  intro xs
  refine channelPeak_opposite ?_
  rw [List.forall₂_map_left_iff, List.forall₂_map_right_iff, List.forall₂_same]
  exact fun v _ => opposite_widen v

end Sys2Proof.Machine
end

section
/-!
PROOF. The codes that a legal command can report (60_exceptions.md R300, R301): a command reports what its last list of checks
reports, and a list of checks reports success or one of its own codes.
-/

namespace Sys2Proof.Machine

/-! ### The byte of a report -/

/-- R300: what a report puts in STATUS.ERRCODE, 0x00 without an error. -/
def reportByte : Option ErrCode → BitVec 8
  | none => 0x00
  | some e => e.byte

theorem Reports.errcode_eq {s t : State} {o : Host.Outcome State Fault Refusal} {code : Option ErrCode} (h : Reports s o code)
    (ht : o = .next t) : t.status.errcode = reportByte code := by
  subst ht
  cases code with
  | none =>
    obtain ⟨u, hu, hstatus⟩ := h
    cases hu
    rw [hstatus]
    rfl
  | some e =>
    cases h
    rfl

/-- R304: checks report 0x00 or the code of one of them. -/
theorem reportByte_firstError_mem (cs : List (Bool × ErrCode)) :
    reportByte (firstError cs) ∈ 0x00 :: cs.map fun c => c.2.byte := by
  cases h : firstError cs with
  | none => exact List.mem_cons_self
  | some e =>
    obtain ⟨pre, post, rfl, -⟩ := (firstError_eq_some cs e).1 h
    exact List.mem_cons_of_mem _ (List.mem_map_of_mem (List.mem_append_right pre List.mem_cons_self))

/-- The same with a check written as a condition before the list, as the rate check is (R146). -/
theorem reportByte_ite_firstError_mem (fails : Prop) [Decidable fails] (e : ErrCode) (cs : List (Bool × ErrCode)) :
    reportByte (if fails then some e else firstError cs) ∈ 0x00 :: e.byte :: cs.map fun c => c.2.byte := by
  have hcheck : (!decide fails) = false ↔ fails := by simp
  rw [← firstError_cons hcheck]
  exact reportByte_firstError_mem _

/-! ### The row of each command -/

theorem reportable_lufsMeasure_of_ne_zero {nch : BitVec 4} (h : nch ≠ 0) :
    reportable (.lufsMeasure nch) = [0x00, 0x02, 0x03, 0x04, 0x05] := if_neg h

theorem reportable_tpMeasure_of_ne_zero {nch : BitVec 4} (h : nch ≠ 0) :
    reportable (.tpMeasure nch) = [0x00, 0x03, 0x04] := if_neg h

/-- R301: a legal command makes a report of its row. Being legal rules out ILLCMD, the check before all others. -/
theorem exec_reports_reportable (i : Instr) (s : State) (hlegal : i.wellFormed = true) :
    ∃ code, Reports s (exec i s) code ∧ reportByte code ∈ reportable i := by
  cases i with
  | nop => exact ⟨none, .of_finish rfl rfl (execNop_eq s), List.mem_cons_self⟩
  | bqLoad slot =>
    exact ⟨none, .of_finish (by simp) (by simp) (execBqLoad_present s (of_decide_eq_true hlegal)), List.mem_cons_self⟩
  | bqReset slot =>
    exact ⟨none, .of_finish (by simp) (by simp) (execBqReset_present s (of_decide_eq_true hlegal)), List.mem_cons_self⟩
  | bqStep slot =>
    exact ⟨none, .of_finish (by simp) (by simp) (execBqStep_present s (of_decide_eq_true hlegal)), List.mem_cons_self⟩
  | bqRun slot =>
    have hpresent : slot.toNat < Config.nbq := of_decide_eq_true hlegal
    have hreport := execBqRun_reports slot s
    rw [if_neg (Nat.not_le.2 hpresent)] at hreport
    exact ⟨_, hreport, reportByte_firstError_mem _⟩
  | kwApply => exact ⟨_, execKwApply_reports s, reportByte_ite_firstError_mem _ _ _⟩
  | lufsMeasure nch =>
    have hfew : nch.toNat ≤ Config.chMax := of_decide_eq_true hlegal
    have hreport := execLufsMeasure_reports nch s fun r hrate => blockCount_of_rateOf hrate
    rw [if_neg (Nat.not_lt.2 hfew)] at hreport
    by_cases hnone : nch = 0
    · subst hnone
      exact ⟨none, hreport, List.mem_cons_self⟩
    · rw [if_neg hnone] at hreport
      rw [reportable_lufsMeasure_of_ne_zero hnone]
      exact ⟨_, hreport, reportByte_ite_firstError_mem _ _ _⟩
  | tpMeasure nch =>
    have hfew : nch.toNat ≤ Config.chMax := of_decide_eq_true hlegal
    have hreport := execTpMeasure_reports nch s
    rw [if_neg (Nat.not_lt.2 hfew)] at hreport
    by_cases hnone : nch = 0
    · subst hnone
      exact ⟨none, hreport, List.mem_cons_self⟩
    · rw [if_neg hnone] at hreport
      rw [reportable_tpMeasure_of_ne_zero hnone]
      exact ⟨_, hreport, reportByte_firstError_mem _⟩

/-- Settles O7: ERRCODE holds the byte of the report, which is of the command's row. -/
theorem errorCodesByCommand : Obligations.ErrorCodesByCommand := by
  intro i s t hlegal ht
  obtain ⟨code, hreport, hmem⟩ := exec_reports_reportable i s hlegal
  rw [hreport.errcode_eq ht]
  exact hmem

end Sys2Proof.Machine
end

section
/-!
PROOF. The two resets (70_reset_and_hazards.md R340 to R342, 10_state.md R61, R70): what a CTRL write and a hard reset leave,
and that a reset of a busy block is the reset of the idle block that accepted.
-/

namespace Sys2Proof.Machine

/-! ### A CTRL write -/

theorem State.ctrlWrite_of_softReset (s : State) {v : B64} (h : v.getLsbD 1 = true) : s.ctrlWrite v = s.softReset := if_pos h

/-- R34, R341: a host write of `v` to CTRL, taken from the script. -/
theorem step_of_pending_ctrl {s : State} {v : B64} {rest : List Turn}
    (h : s.pending = .host (.write .regs .w8 0x008 v) :: rest) :
    step s = .next (({ s with pending := rest } : State).ctrlWrite v) := by
  rw [step_of_pending_host h, hostAccess_write_aligned _ v (by norm_num) (by norm_num), State.regWrite_ctrl]

/-- R341: a CTRL write with SRST = 1, taken from the script. -/
theorem step_of_pending_softReset {s : State} {c : B64} {rest : List Turn} (hc : c.getLsbD 1 = true)
    (h : s.pending = .host (.write .regs .w8 0x008 c) :: rest) :
    step s = .next ({ s with pending := rest } : State).softReset :=
  (step_of_pending_ctrl h).trans (congrArg _ (State.ctrlWrite_of_softReset _ hc))

/-- Settles O11: SRST alone decides between the soft reset and the write of IE, and BUSY plays no part. -/
theorem ctrlWriteResetsOrEnables : Obligations.CtrlWriteResetsOrEnables := by
  intro s v rest hpending
  refine ⟨fun hreset => ?_, fun henable => ?_⟩
  · exact step_of_pending_softReset hreset hpending
  · exact (step_of_pending_ctrl hpending).trans
      (congrArg _ (State.ctrlWrite_of_not_softReset _ (Bool.eq_false_iff.1 henable)))

/-! ### The state after a hard reset -/

/-- R70, R340: the values a hard reset gives what the host sees of the block; DMEM holds no written byte. -/
structure HardResetValues (r : State) : Prop where
  ie : r.ie = false
  status : r.status = Status.zero
  arg : r.arg = Vector.replicate 8 0
  res : r.res = Vector.replicate 8 0
  slots : r.slots = Vector.replicate Config.nbq Biquad.unity
  dmem : r.dmem = []

theorem State.hardReset_values (s : State) : HardResetValues s.hardReset := ⟨rfl, rfl, rfl, rfl, rfl, rfl⟩

theorem State.reset_values : HardResetValues State.reset := ⟨rfl, rfl, rfl, rfl, rfl, rfl⟩

theorem Status.word_zero : Status.zero.word = 0 := by decide

namespace HardResetValues

variable {r : State} (h : HardResetValues r)
include h

theorem irq : r.irq = false := State.irq_of_not_done (by rw [h.status]; rfl)

theorem status_word : r.status.word = 0 := by rw [h.status, Status.word_zero]

theorem busy : r.status.busy = false := by rw [h.status]; rfl

theorem arg_res_get (i : Fin 8) : r.arg[i] = 0 ∧ r.res[i] = 0 := by simp [h.arg, h.res]

theorem slots_get (k : Fin Config.nbq) : r.slots[k] = Biquad.unity := by simp [h.slots]

/-- R92: no byte is written yet, so each is the unspecified byte of this reset. -/
theorem byteAt (a : Nat) : r.byteAt a = Config.unwrittenByte r.resets a := by
  rw [State.byteAt, h.dmem, Dmem.read, Option.getD_none]

end HardResetValues

/-- Settles O13: both states are `HardResetValues`, from which the listed facts follow. -/
theorem hardResetResult : Obligations.HardResetResult := by
  intro s rest hpending
  refine ⟨_, step_of_pending_hardReset hpending, rfl, rfl, fun r hr => ?_⟩
  have h : HardResetValues r := by
    rcases hr with rfl | rfl
    · exact State.hardReset_values _
    · exact State.reset_values
  exact ⟨h.ie, h.irq, h.status_word, h.busy, h.arg_res_get, h.slots_get, h.byteAt⟩

/-! ### A reset of a busy block -/

/-- R342: a soft reset undoes an accept, but for the latches. -/
theorem State.softReset_accept (s : State) (v : B64) :
    (s.accept v).softReset = { s.softReset with cmdl := v, argl := s.arg } := rfl

/-- R342: a hard reset undoes an accept. -/
theorem State.hardReset_accept (s : State) (v : B64) : (s.accept v).hardReset = s.hardReset := rfl

/-- R140: a script that begins with a CMD write to the idle block goes on from the accept. -/
theorem run_core_accept {s : State} (hidle : s.status.busy = false) (v : B64) (rest : List Turn) (k : Nat) :
    Host.Core.run core (k + 1) { s with pending := .host (.write .regs .w8 0x018 v) :: rest } =
      Host.Core.run core k { s.accept v with pending := rest } :=
  run_core_succ k (acceptLatchesCommand _ v rest rfl hidle)

/-- R326: an engine turn after a step that leaves the block idle changes nothing. -/
theorem run_core_engine_after_idle {s t : State} {rest : List Turn} (h : step s = .next t)
    (hidle : t.status.busy = false) (hpending : t.pending = .engine :: rest) :
    Host.Core.run core 2 s = .next { t with pending := rest } := by
  rw [run_core_succ 1 h]
  exact run_core_succ 0 ((step_of_pending_engine hpending).trans (engineStep_of_idle (s := { t with pending := rest }) hidle))

theorem run_core_softReset (s : State) {c : B64} (hc : c.getLsbD 1 = true) :
    Host.Core.run core 2 { s with pending := [.host (.write .regs .w8 0x008 c), .engine] } =
      .next { s.softReset with pending := [] } :=
  run_core_engine_after_idle (t := State.softReset { s with pending := [.engine] })
    (step_of_pending_softReset hc rfl) rfl rfl

theorem run_core_hardReset (s : State) :
    Host.Core.run core 2 { s with pending := [.hardReset, .engine] } = .next { s.hardReset with pending := [] } :=
  run_core_engine_after_idle (t := State.hardReset { s with pending := [.engine] })
    (step_of_pending_hardReset rfl) rfl rfl

/-- Settles O12: both scripts end in the same reset, of the block that accepted and of the idle block, and the reset
undoes the accept. -/
theorem resetAbortsCommand : Obligations.ResetAbortsCommand := by
  intro s v c hidle hc
  refine ⟨?softReset, ?hardReset⟩
  case softReset =>
    refine ⟨{ (s.accept v).softReset with pending := [] }, { s.softReset with pending := [] }, ?_, ?_, ?_, rfl, rfl⟩
    · exact (run_core_accept hidle v _ 2).trans (run_core_softReset (s.accept v) hc)
    · exact run_core_softReset s hc
    · rw [s.softReset_accept]
  case hardReset =>
    refine ⟨{ (s.accept v).hardReset with pending := [] }, { s.hardReset with pending := [] }, ?_, ?_, ?_, rfl, rfl⟩
    · exact (run_core_accept hidle v _ 2).trans (run_core_hardReset (s.accept v))
    · exact run_core_hardReset s
    · rw [s.hardReset_accept]

end Sys2Proof.Machine
end
